-- ==== Sys2Proof/Word.lean ====
section
/-! DEFINITION. The word types of URBC (R7): all unsigned, bits numbered from 0 at the least significant bit.
Addition and subtraction of `Word` are those of `BitVec`, that is modulo 2^32 (R8). -/

namespace Sys2Proof

/-- u8: a data byte, a status byte, an 8-bit external register. -/
abbrev Byte := BitVec 8

/-- u16: one record of the ring RAM (R22). -/
abbrev Slot := BitVec 16

/-- A 16-bit ring cursor (R21, R23). -/
abbrev Cursor := BitVec 16

/-- u32: a command word, a host register, a counter value. -/
abbrev Word := BitVec 32

/-- u64: the operand ARG_HI : ARG_LO (R70). -/
abbrev DWord := BitVec 64

end Sys2Proof
end

