-- ==== Sys2Proof/Config.lean ====
section
/-! DEFINITION. The parameters of R6 and R41 (a record, so that every claim quantifies over them), the machine's own
values of them, and the free values the spec leaves open. What the spec marks OPEN is opaque: nothing can evaluate it. -/

namespace Sys2Proof

/-- OVERWRITE_MODE (R6): what a push into a full buffer discards. -/
inductive OverwriteMode where
  /-- The oldest record is discarded (R101), the normative mode. -/
  | dropOldest
  /-- The new record is discarded (R102), the alternative of 90_conflicts.md C1. -/
  | holdWrite
deriving DecidableEq, Repr

/-- The parameters of R6. They are no state of URBC (R41): no step writes them (log 6). -/
structure Params where
  /-- N, RING_SLOTS: the slots of the ring RAM; N - 1 are usable. -/
  ringSlots     : Nat
  /-- OVERWRITE_MODE. -/
  overwriteMode : OverwriteMode
  /-- FLOW_CONTROL: sampled into `fc_en` at reset (R29). -/
  flowControl   : Bool
  /-- STOP_FREE: free slots at or below which RTS is deasserted. -/
  stopFree      : Nat
  /-- RESUME_LEVEL: unread records below which RTS is reasserted. -/
  resumeLevel   : Nat
  /-- TICKS_PER_MS: counter ticks a millisecond. -/
  ticksPerMs    : Nat
  /-- CNT_START_WORD: written to CNT_CTRL to start the counter (R121). -/
  cntStartWord  : Word
  /-- UART_ADDR_DATA (R61). -/
  uartAddrData  : Nat
  /-- UART_ADDR_LSR (R61). -/
  uartAddrLsr   : Nat
  /-- UART_ADDR_MCR (R61). -/
  uartAddrMcr   : Nat
  /-- UART_ADDR_MSR (R61). -/
  uartAddrMsr   : Nat
  /-- CNT_ADDR_VAL (R61). -/
  cntAddrVal    : Nat
  /-- CNT_ADDR_CTRL (R61). -/
  cntAddrCtrl   : Nat
  /-- HOST_BASE: the base of the host window (R35). -/
  hostBase      : Nat
deriving DecidableEq, Repr

/-- USABLE = N - 1 (R6). -/
def Params.usable (p : Params) : Nat := p.ringSlots - 1

/-- FLOW_CONTROL is OPEN (R6, I14). -/
opaque Config.flowControl : Bool

/-- TICKS_PER_MS less 1: OPEN within 1 ≤ TICKS_PER_MS ≤ 2^32 - 1 (R6, I13). -/
opaque Config.ticksPerMsLessOne : Fin 4294967295

/-- UART_ADDR_DATA is OPEN (R61, I15). -/
opaque Config.uartAddrData : Nat
/-- UART_ADDR_LSR is OPEN (R61, I15). -/
opaque Config.uartAddrLsr : Nat
/-- UART_ADDR_MCR is OPEN (R61, I15). -/
opaque Config.uartAddrMcr : Nat
/-- UART_ADDR_MSR is OPEN (R61, I15). -/
opaque Config.uartAddrMsr : Nat
/-- CNT_ADDR_VAL is OPEN (R61, I15). -/
opaque Config.cntAddrVal : Nat
/-- CNT_ADDR_CTRL is OPEN (R61, I15). -/
opaque Config.cntAddrCtrl : Nat

/-- HOST_BASE in words: OPEN (R6, R35); the base is a multiple of 4, DEDUCED from R59 (log 12). -/
opaque Config.hostBaseWords : Nat

/-- The machine's own parameters: R6's values, and the opaque ones above where R6 says OPEN. -/
def Config.params : Params where
  ringSlots     := 1029
  overwriteMode := .dropOldest
  flowControl   := Config.flowControl
  stopFree      := 64
  resumeLevel   := 32
  ticksPerMs    := Config.ticksPerMsLessOne.val + 1
  cntStartWord  := 0x80000000#32
  uartAddrData  := Config.uartAddrData
  uartAddrLsr   := Config.uartAddrLsr
  uartAddrMcr   := Config.uartAddrMcr
  uartAddrMsr   := Config.uartAddrMsr
  cntAddrVal    := Config.cntAddrVal
  cntAddrCtrl   := Config.cntAddrCtrl
  hostBase      := 4 * Config.hostBaseWords

/-- The free value of the n-th environment read when it is of LSR and no value is listed (R11, log 2). -/
opaque Config.lsrDraw : Nat → Byte
/-- The free value of the n-th environment read when it is of DATA (R11, log 2). -/
opaque Config.dataDraw : Nat → Byte
/-- The free value of the n-th environment read when it is of MSR (R11, log 2). -/
opaque Config.msrDraw : Nat → Byte
/-- The free value of the n-th environment read when it is of CNT_VAL (R11, R56, log 2). -/
opaque Config.cntDraw : Nat → Word
/-- What the UART's MCR holds before URBC has written it (R202, I16, log 3). -/
opaque Config.mcrAtReset : Byte
/-- What a ring slot not written since reset number `r` holds: unspecified (R22, I2, log 4). Arguments: `r`, the slot. -/
opaque Config.ringUnspecified : Nat → Nat → Slot

end Sys2Proof
end

