-- ==== Sys2Proof/Machine/State.lean ====
section
/-! DEFINITION. The state of URBC as plain data (R20: "URBC's state is exactly" the fields below `params`), the
environment beside it, the reasons a step can stop, and the state after reset (R200). -/

namespace Sys2Proof.Machine

/-- The six registers of the external bus (R51). -/
inductive ExtReg where
  | data | lsr | mcr | msr | cntVal | cntCtrl
deriving DecidableEq, Repr

/-- The direction of a bus transaction (R9). -/
inductive BusDir where
  | read | write
deriving DecidableEq, Repr

/-- One transaction on the external register bus (R9, R58): `MemRead` or `MemWrite` of `bytes` bytes at `addr`, the
address of `reg`; `value` is the value moved, zero-extended to 32 bits. -/
structure BusTx where
  dir   : BusDir
  reg   : ExtReg
  addr  : Nat
  bytes : Nat
  value : Word
deriving DecidableEq, Repr

/-- The eight registers of the host window (R35). -/
inductive HostReg where
  | cmd | argLo | argHi | rsp | rspV0 | rspV1 | stat | cursors
deriving DecidableEq, Repr

/-- One access of the host to the window (R59): an address, a width in bytes and, for a write, the value. -/
inductive HostAccess where
  | read  (addr bytes : Nat)
  | write (addr bytes : Nat) (value : Word)
deriving DecidableEq, Repr

/-- Who moves next (R5, R10, R201): the controller (one micro-step), the host (one access), or the reset input (log 1). -/
inductive Move where
  | controller
  | host (a : HostAccess)
  | reset
deriving DecidableEq, Repr

/-- The controller's micro-step labels (R30). -/
inductive Label where
  | idle
  | push1
  | pop1
  | nf1
  | bl1
  | now1 | now2
  | da1 | da2
  | rc1 | rc2
  | poll1 | poll2 | poll3 | poll4
  | wb1 | wb2 | wb3 | wb4 | wb5 | wb6
  | rn1 | rn2 | rn3 | rn4 | rn5 | rn6 | rn7
  | rt1 | rt2 | rt3 | rt4 | rt5 | rt6 | rt7 | rt8 | rt9 | rt10
  | sm1 | sm2 | sm3
  | ss1 | ss2 | ss3
deriving DecidableEq, Repr

/-- The ring RAM (R22): the slots written since reset with the record each holds, slots strictly rising (log 5). -/
abbrev Memory := List (Nat × Slot)

/-- The canonical form: slots strictly rising, so none repeats. An unlisted slot holds no written record. -/
abbrev Memory.wf (m : Memory) : Prop := m.Pairwise (fun x y => x.1 < y.1)

/-- The outside of URBC: the schedule of moves, the values the environment supplies, its register MCR, and what the
outside has seen. No field is URBC's state (R20, R41); INVENTORY.md lists each. -/
structure Env where
  /-- The moves to come; with none listed the controller moves (log 1). -/
  moves     : List Move
  /-- The values the next reads of LSR return; with none listed, a free value (R11, log 2). -/
  lsrIn     : List Byte
  /-- The same for DATA. -/
  dataIn    : List Byte
  /-- The same for MSR. -/
  msrIn     : List Byte
  /-- The same for CNT_VAL. -/
  cntIn     : List Word
  /-- The environment's register MCR: the value last written (R54, log 3). -/
  mcr       : Byte
  /-- How many of the inputs above (LSR, DATA, MSR, CNT_VAL) have been taken: indexes the free values (log 2). -/
  drawn     : Nat
  /-- How many resets there have been: indexes the ring RAM's unspecified contents (log 4). -/
  resets    : Nat
  /-- The bus transactions made so far, oldest first (R62, log 15). -/
  trace     : List BusTx
  /-- The values the host has read so far, oldest first (R59, log 15). -/
  hostReads : List (HostReg × Word)
deriving DecidableEq, Repr

/-- The machine: its parameters (no state, log 6), the state of R20, and the environment. -/
structure State where
  /-- The parameters of R6, never written by a step (log 6). -/
  params       : Params
  /-- `buf`, the ring RAM (R22). -/
  buf          : Memory
  /-- `wp`, the write cursor (R21). -/
  wp           : Cursor
  /-- `rp`, the read cursor (R23). -/
  rp           : Cursor
  /-- `rts_shadow` (R26). -/
  rtsShadow    : Bool
  /-- `timer_started` (R27). -/
  timerStarted : Bool
  /-- `dl_start` (R28). -/
  dlStart      : Word
  /-- `dl_end` (R28). -/
  dlEnd        : Word
  /-- `fc_en` (R29). -/
  fcEn         : Bool
  /-- `step`, the micro-step label (R30). -/
  step         : Label
  /-- `c_op` (R31). -/
  cOp          : BitVec 4
  /-- `c_b0` (R31). -/
  cB0          : Byte
  /-- `c_b1` (R31). -/
  cB1          : Byte
  /-- `c_t` (R31). -/
  cT           : Bool
  /-- `c_arg` (R31). -/
  cArg         : DWord
  /-- `t_lsr` (R32). -/
  tLsr         : Byte
  /-- `t_data` (R32). -/
  tData        : Byte
  /-- `t_mcr` (R32). -/
  tMcr         : Byte
  /-- `t_msr` (R32). -/
  tMsr         : Byte
  /-- `t_cur` (R32). -/
  tCur         : Word
  /-- `t_res` (R32): None or Some record. -/
  tRes         : Option Slot
  /-- `t_ticks` (R32), an unbounded natural number. -/
  tTicks       : Nat
  /-- `ARG_LO` (R36). -/
  argLo        : Word
  /-- `ARG_HI` (R36). -/
  argHi        : Word
  /-- `RSP` (R37). -/
  rsp          : Word
  /-- `RSP_V0` (R37). -/
  rspV0        : Word
  /-- `RSP_V1` (R37). -/
  rspV1        : Word
  /-- `busy` (R38). -/
  busy         : Bool
  /-- `cmd_lost` (R38). -/
  cmdLost      : Bool
  /-- The environment (R5), not URBC's state. -/
  env          : Env
deriving DecidableEq, Repr

/-- URBC raises no exception and no micro-step faults (R180): there is no fault to name. -/
inductive Fault where
deriving DecidableEq, Repr

/-- Why a step is refused. No command raises one: the three host refusals are raised by a host move (R59). -/
inductive Refusal where
  /-- An instruction without a meaning: raised by a refused arm of `exec`; no arm is refused. Safe. -/
  | notModelled (mnemonic : String)
  /-- A host access not 32 bits wide (R59): raised by `hostAccess`; safe, "the host has no such move". -/
  | hostAccessWidth
  /-- A host access at an address not a multiple of 4 (R59): raised by `hostAccess`; safe. -/
  | hostAccessAlignment
  /-- A host access at no register of the window (R59, I10): raised by `hostAccess`; safe. -/
  | hostAccessOutsideWindow
deriving DecidableEq, Repr

/-- Every register at its reset value (R20, R200), in an environment that reset does not touch (R202). -/
def State.atReset (p : Params) (e : Env) : State where
  params       := p
  buf          := []
  wp           := 0#16
  rp           := 0#16
  rtsShadow    := false
  timerStarted := false
  dlStart      := 0#32
  dlEnd        := 0#32
  fcEn         := p.flowControl
  step         := .idle
  cOp          := 0#4
  cB0          := 0#8
  cB1          := 0#8
  cT           := false
  cArg         := 0#64
  tLsr         := 0#8
  tData        := 0#8
  tMcr         := 0#8
  tMsr         := 0#8
  tCur         := 0#32
  tRes         := none
  tTicks       := 0
  argLo        := 0#32
  argHi        := 0#32
  rsp          := 0#32
  rspV0        := 0#32
  rspV1        := 0#32
  busy         := false
  cmdLost      := false
  env          := e

/-- The environment before anything has happened: nothing scheduled, no input listed, MCR unknown (R202, log 11). -/
def Env.start : Env where
  moves     := []
  lsrIn     := []
  dataIn    := []
  msrIn     := []
  cntIn     := []
  mcr       := Config.mcrAtReset
  drawn     := 0
  resets    := 0
  trace     := []
  hostReads := []

/-- The machine right after reset (R200). -/
def State.reset : State := State.atReset Config.params Env.start

end Sys2Proof.Machine
end

