-- ==== Sys2Proof/Machine/Flags.lean ====
section
/-! DEFINITION. Everything URBC computes from its state without changing it: the derived quantities of the cursors
(R24), the watermark predicates (R104), STAT (R39), CURSORS (R40), the response formats (R80, R81) and the deadline
comparator (R125). -/

namespace Sys2Proof.Machine

/-- `count = (wp - rp) mod N` (R24, with R8's subtraction). -/
def State.count (s : State) : Nat :=
  (s.wp.toNat + s.params.ringSlots - s.rp.toNat) % s.params.ringSlots

/-- `free = (N - 1) - count` (R24). -/
def State.free (s : State) : Nat := s.params.usable - s.count

/-- `empty = (wp == rp)` (R24). -/
def State.empty (s : State) : Bool := s.wp == s.rp

/-- `full = (count == N - 1)` (R24). -/
def State.full (s : State) : Bool := s.count == s.params.usable

/-- `nearly_full(t) = (free ≤ t)` (R104). -/
def State.nearlyFull (s : State) (t : Nat) : Bool := decide (s.free ≤ t)

/-- `below(t) = (count < t)` (R104). -/
def State.below (s : State) (t : Nat) : Bool := decide (s.count < t)

/-- A one-bit field `b` at bit `k` of a host register. -/
def bitAt (b : Bool) (k : Nat) : Word := (BitVec.ofBool b).setWidth 32 <<< k

/-- The status word STAT (R39): BUSY, FC_EN, RTS, TSTARTED, EMPTY, CMD_LOST, FULL in bits 0 to 6, the rest 0. -/
def State.stat (s : State) : Word :=
  bitAt s.busy 0 ||| bitAt s.fcEn 1 ||| bitAt s.rtsShadow 2 ||| bitAt s.timerStarted 3 ||| bitAt s.empty 4
    ||| bitAt s.cmdLost 5 ||| bitAt s.full 6

/-- CURSORS (R40): `rp` in bits 31:16, `wp` in bits 15:0. -/
def State.cursors (s : State) : Word := (s.rp.setWidth 32 <<< 16) ||| s.wp.setWidth 32

/-- A record from its status byte and data byte (R22): status in bits 15:8, data in bits 7:0. -/
def packRecord (status data : Byte) : Slot := (status.setWidth 16 <<< 8) ||| data.setWidth 16

/-- `rec[15:8]` (R22). -/
def recordStatus (r : Slot) : Byte := r.extractLsb' 8 8

/-- `rec[7:0]` (R22). -/
def recordData (r : Slot) : Byte := r.extractLsb' 0 8

/-- What `finish` writes (R80). -/
structure Response where
  rsp : Word
  v0  : Word
  v1  : Word
deriving DecidableEq, Repr

/-- RSP from its fields (R80): ILLEGAL 18, BOOL 17, SOME 16, STATUS 15:8, DATA 7:0, the rest 0. -/
def packRsp (illegal bool some : Bool) (status data : Byte) : Word :=
  bitAt illegal 18 ||| bitAt bool 17 ||| bitAt some 16 ||| (status.setWidth 32 <<< 8) ||| data.setWidth 32

/-- The response 0: "any field a command's row does not name is written 0" (R80). -/
def Response.zero : Response := ⟨0#32, 0#32, 0#32⟩

/-- `rec_resp(r)`: the row POP, READ_NB, READ_TO of R81. -/
def Response.record : Option Slot → Response
  | some r => ⟨packRsp false false true (recordStatus r) (recordData r), 0#32, 0#32⟩
  | none => Response.zero

/-- The row NEARLY_FULL, BELOW of R81. -/
def Response.bool (b : Bool) : Response := ⟨packRsp false b false 0#8 0#8, 0#32, 0#32⟩

/-- The row NOW of R81. -/
def Response.counter (v : Word) : Response := ⟨0#32, v, 0#32⟩

/-- The row DEADLINE_AFTER of R81. -/
def Response.deadline (stop start : Word) : Response := ⟨0#32, stop, start⟩

/-- The row REACHED of R81. -/
def Response.comparison (b : Bool) (sample : Word) : Response := ⟨packRsp false b false 0#8 0#8, sample, 0#32⟩

/-- The row POLL of R81. -/
def Response.status (lsr : Byte) : Response := ⟨packRsp false false false lsr 0#8, 0#32, 0#32⟩

/-- `reject(w)` of R79: ILLEGAL set, the word in RSP_V0. -/
def Response.illegal (w : Word) : Response := ⟨packRsp true false false 0#8 0#8, w, 0#32⟩

/-- The deadline's end for start `s` and `k` ticks (R123, R124): clamped to `s - 1` when `k > 0xFFFF_FFFF`. -/
def deadlineEnd (s : Word) (k : Nat) : Word :=
  if k > 0xFFFFFFFF then s - 1#32 else s + BitVec.ofNat 32 k

/-- The comparator (R125): elapsed ticks since `s` at least the duration of the deadline, both modulo 2^32. -/
def deadlineReached (cur s e : Word) : Bool := decide ((e - s).toNat ≤ (cur - s).toNat)

end Sys2Proof.Machine
end

