-- ==== Sys2Proof/Syntax.lean ====
section
/-! DEFINITION. The thirteen commands of R71 with the operands their command word carries (R70, R73). The operands
taken from ARG_HI : ARG_LO are no part of the word (R70): they are read from the latched `c_arg` (Machine/Operands.lean). -/

namespace Sys2Proof

/-- One command, as its command word gives it. -/
inductive Instr where
  /-- `PUSH status, data` (R105): status = B1, data = B0. -/
  | push (status data : Byte)
  /-- `POP` (R106). -/
  | pop
  /-- `NEARLY_FULL threshold` (R107). -/
  | nearlyFull
  /-- `BELOW threshold` (R108). -/
  | below
  /-- `NOW` (R126). -/
  | now
  /-- `DEADLINE_AFTER ticks` (R127). -/
  | deadlineAfter
  /-- `REACHED end, start` (R128). -/
  | reached
  /-- `POLL` (R144). -/
  | poll
  /-- `WRITE_BYTE b` (R151): b = B0. -/
  | writeByte (b : Byte)
  /-- `READ_NB` (R154). -/
  | readNb
  /-- `READ_TO seconds` for T = 1, `READ_FOREVER` for T = 0 (R157, R77). -/
  | readTo (t : Bool)
  /-- `SLEEP_MS ms` (R171). -/
  | sleepMs
  /-- `SLEEP_S seconds` (R172). -/
  | sleepS
deriving DecidableEq, Repr

end Sys2Proof
end

