-- ==== Sys2Proof/WellFormed.lean ====
section
/-! DEFINITION. What is well formed: a parameter record (R6), a command word by its fields (R70, R75, R76), and a host
access (R59). Every term of `Instr` is well formed by its types: each operand's type admits exactly the values the
encoding admits (R73), so the checks on a command are checks on its word. -/

namespace Sys2Proof

/-- R6: the ranges of the parameters; HOST_BASE a multiple of 4 is DEDUCED from R59 (log 12). -/
def Params.wellFormed (p : Params) : Bool :=
  decide (2 ≤ p.ringSlots) && decide (p.ringSlots ≤ 65536)
    && decide (1 ≤ p.ticksPerMs) && decide (p.ticksPerMs ≤ 4294967295)
    && decide (p.hostBase % 4 = 0)

/-- The field reading of a legal word (R70, R75's second sentence): OP (bits 3:0) is assigned, Z0 (7:4) and Z1 (15:9)
are 0, T (bit 8) only on READ_TO, B0 (23:16) only on PUSH and WRITE_BYTE, B1 (31:24) only on PUSH. -/
def Word.wellFormed (w : Word) : Bool :=
  let op := w.extractLsb' 0 4
  !(op == 0x0#4 || op == 0xE#4 || op == 0xF#4)
    && w.extractLsb' 4 4 == 0#4
    && w.extractLsb' 9 7 == 0#7
    && (!w.getLsbD 8 || op == 0xB#4)
    && (w.extractLsb' 16 8 == 0#8 || op == 0x1#4 || op == 0x9#4)
    && (w.extractLsb' 24 8 == 0#8 || op == 0x1#4)

/-- The host access contract (R59): 32 bits wide, aligned, inside the window of 32 bytes at HOST_BASE. -/
def hostAccessWellFormed (p : Params) (addr bytes : Nat) : Bool :=
  decide (bytes = 4) && decide (addr % 4 = 0)
    && decide (p.hostBase ≤ addr) && decide (addr ≤ p.hostBase + 0x1C)

end Sys2Proof
end

