-- ==== Sys2Proof/Decode.lean ====
section
/-! DEFINITION. Decoding of command words by the match and mask rows of R72 (total, R75), rejecting by name, and the
encoder written from the same rows. A command word is one 32-bit word; there is no length decision (R82). -/

namespace Sys2Proof

/-- OP, bits 3:0 (R70). -/
def Word.op (w : Word) : BitVec 4 := w.extractLsb' 0 4
/-- T, bit 8 (R70). -/
def Word.t (w : Word) : Bool := w.getLsbD 8
/-- B0, bits 23:16 (R70). -/
def Word.b0 (w : Word) : Byte := w.extractLsb' 16 8
/-- B1, bits 31:24 (R70). -/
def Word.b1 (w : Word) : Byte := w.extractLsb' 24 8

/-- One row of R72: a word `w` encodes the row's command exactly when `w &&& mask = pattern`; `build` reads its free fields. -/
structure OpcodeRow where
  pattern : Word
  mask    : Word
  build   : Word → Instr

/-- The table of R72, in its order. -/
def opcodeRows : List OpcodeRow :=
  [ ⟨0x00000001#32, 0x0000FFFF#32, fun w => .push (Word.b1 w) (Word.b0 w)⟩,
    ⟨0x00000002#32, 0xFFFFFFFF#32, fun _ => .pop⟩,
    ⟨0x00000003#32, 0xFFFFFFFF#32, fun _ => .nearlyFull⟩,
    ⟨0x00000004#32, 0xFFFFFFFF#32, fun _ => .below⟩,
    ⟨0x00000005#32, 0xFFFFFFFF#32, fun _ => .now⟩,
    ⟨0x00000006#32, 0xFFFFFFFF#32, fun _ => .deadlineAfter⟩,
    ⟨0x00000007#32, 0xFFFFFFFF#32, fun _ => .reached⟩,
    ⟨0x00000008#32, 0xFFFFFFFF#32, fun _ => .poll⟩,
    ⟨0x00000009#32, 0xFF00FFFF#32, fun w => .writeByte (Word.b0 w)⟩,
    ⟨0x0000000A#32, 0xFFFFFFFF#32, fun _ => .readNb⟩,
    ⟨0x0000000B#32, 0xFFFFFEFF#32, fun w => .readTo (Word.t w)⟩,
    ⟨0x0000000C#32, 0xFFFFFFFF#32, fun _ => .sleepMs⟩,
    ⟨0x0000000D#32, 0xFFFFFFFF#32, fun _ => .sleepS⟩ ]

/-- Whether a word matches a row (R72). -/
def OpcodeRow.matchesWord (r : OpcodeRow) (w : Word) : Bool := w &&& r.mask == r.pattern

/-- Why a word is illegal (R75, R76). R79 treats the two alike. -/
inductive IllegalWord where
  /-- OP is 0x0, 0xE or 0xF. -/
  | reservedOpcode
  /-- OP is assigned and a field that must be 0 is not. -/
  | reservedField
deriving DecidableEq, Repr

/-- `decode` of R75: the row that matches, else a rejection by name. -/
def decode (w : Word) : Except IllegalWord Instr :=
  match opcodeRows.find? (fun r => r.matchesWord w) with
  | some r => .ok (r.build w)
  | none =>
    if Word.op w == 0x0#4 || Word.op w == 0xE#4 || Word.op w == 0xF#4 then .error .reservedOpcode
    else .error .reservedField

/-- A command word from its fields (R70): B1, B0, Z1 = 0, T, Z0 = 0, OP. -/
def packWord (b1 b0 : Byte) (t : Bool) (op : BitVec 4) : Word :=
  (b1.setWidth 32 <<< 24) ||| (b0.setWidth 32 <<< 16) ||| ((BitVec.ofBool t).setWidth 32 <<< 8) ||| op.setWidth 32

/-- The command word of a command (R70 to R72). -/
def encode : Instr → Word
  | .push status data => packWord status data false 0x1#4
  | .pop              => packWord 0#8 0#8 false 0x2#4
  | .nearlyFull       => packWord 0#8 0#8 false 0x3#4
  | .below            => packWord 0#8 0#8 false 0x4#4
  | .now              => packWord 0#8 0#8 false 0x5#4
  | .deadlineAfter    => packWord 0#8 0#8 false 0x6#4
  | .reached          => packWord 0#8 0#8 false 0x7#4
  | .poll             => packWord 0#8 0#8 false 0x8#4
  | .writeByte b      => packWord 0#8 b false 0x9#4
  | .readNb           => packWord 0#8 0#8 false 0xA#4
  | .readTo t         => packWord 0#8 0#8 t 0xB#4
  | .sleepMs          => packWord 0#8 0#8 false 0xC#4
  | .sleepS           => packWord 0#8 0#8 false 0xD#4

/-- The command word whose bits are `w` in the opcode table's numbering, `nbits` of them given, the bits above 0. Every
command word is one 32-bit word (R82); a number that does not fit 32 bits is none. -/
def tableWord (nbits w : Nat) : Option Word :=
  if w % 2 ^ nbits < 2 ^ 32 then some (BitVec.ofNat 32 (w % 2 ^ nbits)) else none

/-- What the decoder reads from a table word (none where it rejects). -/
def decodeTableWord (nbits w : Nat) : Option Instr :=
  match tableWord nbits w with
  | some v => (decode v).toOption
  | none => none

end Sys2Proof
end

