-- ==== Sys2Proof/Machine/Operands.lean ====
section
/-! DEFINITION. The operands of R73 that a command takes from the latched operand `c_arg`, each zero-extended to the width
its rule computes in (R74), and the latched command word. The operands in the word (PUSH, WRITE_BYTE, READ_TO) come
with the decoded `Instr`. -/

namespace Sys2Proof.Machine

/-- `c_arg[31:0]`. -/
def State.argLow (s : State) : Word := s.cArg.extractLsb' 0 32

/-- `c_arg[63:32]`. -/
def State.argHigh (s : State) : Word := s.cArg.extractLsb' 32 32

/-- The threshold of NEARLY_FULL and BELOW: `c_arg[31:0]` (R73). -/
def State.threshold (s : State) : Nat := s.argLow.toNat

/-- The ticks of DEADLINE_AFTER: `c_arg[63:0]` (R73). -/
def State.ticks (s : State) : Nat := s.cArg.toNat

/-- The deadline (end) of REACHED: `c_arg[31:0]` (R73). -/
def State.endOperand (s : State) : Word := s.argLow

/-- The start of REACHED: `c_arg[63:32]` (R73). -/
def State.startOperand (s : State) : Word := s.argHigh

/-- The seconds of READ_TO and SLEEP_S: `c_arg[31:0]` (R73). -/
def State.seconds (s : State) : Nat := s.argLow.toNat

/-- The milliseconds of SLEEP_MS: `c_arg[31:0]` (R73). -/
def State.milliseconds (s : State) : Nat := s.argLow.toNat

/-- `secs × 1000 × TICKS_PER_MS`, exact on nat (R156, R172). -/
def State.secondTicks (s : State) : Nat := s.seconds * 1000 * s.params.ticksPerMs

/-- `ms × TICKS_PER_MS`, exact on nat (R171). -/
def State.millisecondTicks (s : State) : Nat := s.milliseconds * s.params.ticksPerMs

/-- The command word that the latched fields `c_b1`, `c_b0`, `c_t`, `c_op` came from (R31), when it is a legal word. -/
def State.latchedWord (s : State) : Word := packWord s.cB1 s.cB0 s.cT s.cOp

end Sys2Proof.Machine
end

