-- ==== Sys2Proof/Machine/Ops.lean ====
section
/-! DEFINITION. The named operations every command is built from: ring RAM and cursors (R100 to R103), bus transactions
(R9, R51 to R56), the counter start and deadline formation (R121, R123), the RTS update (R143), `finish` (R80) and the
one error report `reject` (R79). URBC takes no exception (R180), so no operation takes one. -/

namespace Sys2Proof.Machine

/-- What every `exec` arm answers. -/
abbrev Result := Host.Outcome State Fault Refusal

/-! ## The ring RAM -/

/-- The record written to slot `i` since reset, if any (R22). -/
def Memory.read : Memory → Nat → Option Slot
  | [], _ => none
  | (a, v) :: m, i => if a = i then some v else Memory.read m i

/-- Write record `v` to slot `i`, keeping the canonical form. -/
def Memory.write : Memory → Nat → Slot → Memory
  | [], i, v => [(i, v)]
  | (a, w) :: m, i, v =>
    if i < a then (i, v) :: (a, w) :: m
    else if a = i then (i, v) :: m
    else (a, w) :: Memory.write m i v

/-- `buf[i]` (R9): what was written there since reset, else the unspecified content (R22, log 4). -/
def State.ringRead (s : State) (i : Nat) : Slot :=
  (s.buf.read i).getD (Config.ringUnspecified s.env.resets i)

/-- `(c + 1) mod N` (R101, R103), stored in the 16 bits of a cursor. -/
def cursorNext (n : Nat) (c : Cursor) : Cursor := BitVec.ofNat 16 ((c.toNat + 1) % n)

/-- `push(s, d)`: R101 under DROP_OLDEST, R102 under HOLD_WRITE. -/
def pushRecord (status data : Byte) (s : State) : State :=
  let nwp := cursorNext s.params.ringSlots s.wp
  let written := s.buf.write s.wp.toNat (packRecord status data)
  match s.params.overwriteMode with
  | .dropOldest =>
    { s with buf := written, wp := nwp, rp := if nwp = s.rp then cursorNext s.params.ringSlots s.rp else s.rp }
  | .holdWrite =>
    { s with buf := written, wp := if nwp = s.rp then s.wp else nwp }

/-- What `pop()` returns (R103). -/
def popResult (s : State) : Option Slot :=
  if s.rp = s.wp then none else some (s.ringRead s.rp.toNat)

/-- What `pop()` does to the read cursor (R103). -/
def popRecord (s : State) : State :=
  if s.rp = s.wp then s else { s with rp := cursorNext s.params.ringSlots s.rp }

/-- `t_res <- pop()` (R154, R157). -/
def popToTemp (s : State) : State := { popRecord s with tRes := popResult s }

/-! ## Control -/

/-- `step <- l` (R9). -/
def goto (l : Label) (s : State) : State := { s with step := l }

/-- `finish(resp)` (R80): the response registers, `busy <- 0`, `step <- IDLE`. -/
def finish (r : Response) (s : State) : State :=
  { s with rsp := r.rsp, rspV0 := r.v0, rspV1 := r.v1, busy := false, step := .idle }

/-- `reject(w)` (R79): the response registers and nothing else. -/
def reject (w : Word) (s : State) : State :=
  { s with rsp := (Response.illegal w).rsp, rspV0 := (Response.illegal w).v0, rspV1 := (Response.illegal w).v1 }

/-! ## Bus transactions -/

/-- The full width of an external register in bytes (R51, R58). -/
def ExtReg.bytes : ExtReg → Nat
  | .data | .lsr | .mcr | .msr => 1
  | .cntVal | .cntCtrl => 4

/-- The bus address of an external register (R61). -/
def ExtReg.addr (p : Params) : ExtReg → Nat
  | .data => p.uartAddrData
  | .lsr => p.uartAddrLsr
  | .mcr => p.uartAddrMcr
  | .msr => p.uartAddrMsr
  | .cntVal => p.cntAddrVal
  | .cntCtrl => p.cntAddrCtrl

/-- The transaction record of an access to `reg` moving `value` (R58). -/
def busTx (p : Params) (dir : BusDir) (reg : ExtReg) (value : Word) : BusTx :=
  { dir := dir, reg := reg, addr := reg.addr p, bytes := reg.bytes, value := value }

/-- The trace with one more transaction at its end (R62). -/
def State.traceWith (s : State) (dir : BusDir) (reg : ExtReg) (value : Word) : List BusTx :=
  s.env.trace ++ [busTx s.params dir reg value]

/-- What the environment answers to the next read of LSR (R11). -/
def State.nextLsr (s : State) : Byte := s.env.lsrIn.headD (Config.lsrDraw s.env.drawn)
/-- What the environment answers to the next read of DATA (R11). -/
def State.nextData (s : State) : Byte := s.env.dataIn.headD (Config.dataDraw s.env.drawn)
/-- What the environment answers to the next read of MSR (R11). -/
def State.nextMsr (s : State) : Byte := s.env.msrIn.headD (Config.msrDraw s.env.drawn)
/-- What the environment answers to the next read of CNT_VAL (R11). -/
def State.nextCnt (s : State) : Word := s.env.cntIn.headD (Config.cntDraw s.env.drawn)

/-- `t_lsr <- MemRead(LSR, 1)` (R52). -/
def readLsr (s : State) : State :=
  { s with
    tLsr := s.nextLsr
    env := { s.env with
      lsrIn := s.env.lsrIn.tail
      drawn := s.env.drawn + 1
      trace := s.traceWith .read .lsr (s.nextLsr.setWidth 32) } }

/-- `t_data <- MemRead(DATA, 1)` (R53). -/
def readData (s : State) : State :=
  { s with
    tData := s.nextData
    env := { s.env with
      dataIn := s.env.dataIn.tail
      drawn := s.env.drawn + 1
      trace := s.traceWith .read .data (s.nextData.setWidth 32) } }

/-- `t_msr <- MemRead(MSR, 1)` (R54). -/
def readMsr (s : State) : State :=
  { s with
    tMsr := s.nextMsr
    env := { s.env with
      msrIn := s.env.msrIn.tail
      drawn := s.env.drawn + 1
      trace := s.traceWith .read .msr (s.nextMsr.setWidth 32) } }

/-- `t_cur <- MemRead(CNT_VAL, 4)` (R56, R122). -/
def readCnt (s : State) : State :=
  { s with
    tCur := s.nextCnt
    env := { s.env with
      cntIn := s.env.cntIn.tail
      drawn := s.env.drawn + 1
      trace := s.traceWith .read .cntVal s.nextCnt } }

/-- `t_mcr <- MemRead(MCR, 1)`: the value last written, no side effect (R54, log 3). -/
def readMcr (s : State) : State :=
  { s with
    tMcr := s.env.mcr
    env := { s.env with trace := s.traceWith .read .mcr (s.env.mcr.setWidth 32) } }

/-- `MemWrite(DATA, 1, b)` (R53). -/
def writeData (b : Byte) (s : State) : State :=
  { s with env := { s.env with trace := s.traceWith .write .data (b.setWidth 32) } }

/-- `MemWrite(MCR, 1, v)` (R54): the environment's MCR holds `v` from here on. -/
def writeMcr (v : Byte) (s : State) : State :=
  { s with env := { s.env with mcr := v, trace := s.traceWith .write .mcr (v.setWidth 32) } }

/-- `MemWrite(CNT_CTRL, 4, v)` (R56). -/
def writeCntCtrl (v : Word) (s : State) : State :=
  { s with env := { s.env with trace := s.traceWith .write .cntCtrl v } }

/-! ## RTS, timer -/

/-- The byte that `set_rts(v)` writes back (R143): `(m & 0xFD) | (v << 1)`. -/
def rtsByte (v : Bool) (m : Byte) : Byte := (m &&& 0xFD#8) ||| (if v then 0x02#8 else 0x00#8)

/-- The write half of `set_rts(v)` (R143). -/
def writeRts (v : Bool) (s : State) : State :=
  { writeMcr (rtsByte v s.tMcr) s with rtsShadow := v }

/-- The start micro-step `X.start` (R121). -/
def startTimer (s : State) : State :=
  if s.timerStarted then s else { writeCntCtrl s.params.cntStartWord s with timerStarted := true }

/-- `t_ticks <- k` (R157, R171, R172). -/
def setTicks (k : Nat) (s : State) : State := { s with tTicks := k }

/-- `form_deadline(s, k)` from the sampled start `t_cur` (R123). -/
def formDeadline (k : Nat) (s : State) : State :=
  { s with dlStart := s.tCur, dlEnd := deadlineEnd s.tCur k }

/-- `reached(t_cur, dl_start, dl_end)`: the waiting commands' test (R125). -/
def State.deadlinePassed (s : State) : Bool := deadlineReached s.tCur s.dlStart s.dlEnd

/-- Reset (R200 to R202): every register to its reset value; the environment keeps its state and sees no transaction;
the ring RAM's contents become unspecified, hence the new index (log 4). -/
def applyReset (s : State) : State :=
  State.atReset s.params { s.env with resets := s.env.resets + 1 }

end Sys2Proof.Machine
end

