-- ==== Sys2Proof/Machine/Drain.lean ====
section
/-! DEFINITION. The drain sequence DRAIN(X, k, exit) of R141 as four micro-steps over the labels of the command that
embeds it, and the resume check of R153. -/

namespace Sys2Proof.Machine

/-- The labels X.k to X.(k+3) of a drain (R141). -/
structure DrainLabels where
  lsr      : Label
  data     : Label
  mcrRead  : Label
  mcrWrite : Label
deriving DecidableEq, Repr

/-- X.k (R141): read LSR; with DR = 0 the embedding command's exit action, in this same micro-step. -/
def drainLsr (l : DrainLabels) (exit : State → State) (s : State) : State :=
  let s1 := readLsr s
  if s1.tLsr.getLsbD 0 then goto l.data s1 else exit s1

/-- X.(k+1) (R141): read DATA, push the record, and with flow control on test the stop watermark. -/
def drainData (l : DrainLabels) (s : State) : State :=
  let s1 := readData s
  let s2 := pushRecord s1.tLsr s1.tData s1
  if s2.fcEn && s2.nearlyFull s2.params.stopFree then goto l.mcrRead s2 else goto l.lsr s2

/-- X.(k+2) (R141): the read half of `set_rts(0)`. -/
def drainMcrRead (l : DrainLabels) (s : State) : State := goto l.mcrWrite (readMcr s)

/-- X.(k+3) (R141): the write half of `set_rts(0)`, then the next LSR read. -/
def drainMcrWrite (l : DrainLabels) (s : State) : State := goto l.lsr (writeRts false s)

/-- POLL.1 to POLL.4 (R144). -/
def pollDrain : DrainLabels := ⟨.poll1, .poll2, .poll3, .poll4⟩
/-- WB.1 to WB.4 (R151). -/
def wbDrain : DrainLabels := ⟨.wb1, .wb2, .wb3, .wb4⟩
/-- RN.1 to RN.4 (R154). -/
def rnDrain : DrainLabels := ⟨.rn1, .rn2, .rn3, .rn4⟩
/-- RT.3 to RT.6 (R157). -/
def rtDrain : DrainLabels := ⟨.rt3, .rt4, .rt5, .rt6⟩

/-- The condition of the resume check (R153). -/
def State.resumeDue (s : State) : Bool := s.fcEn && s.below s.params.resumeLevel

/-- `t_res <- pop()` and the resume check (R153, R154, R157): with it due the read half of `set_rts(1)` follows at
`mcrRead`, else `after` in this same micro-step. -/
def popAndResume (mcrRead : Label) (after : State → State) (s : State) : State :=
  let s1 := popToTemp s
  if s1.resumeDue then goto mcrRead s1 else after s1

end Sys2Proof.Machine
end

