-- ==== Sys2Proof/Machine/ByteIo.lean ====
section
/-! DEFINITION. The byte I/O family: WRITE_BYTE, READ_NB, READ_TO (43_byte_io.md). The first label is also where a
command not under way begins (log 7). -/

namespace Sys2Proof.Machine

/-- `gate` of R151: THRE on the LSR value that ended the drain, then CTS only with flow control on. -/
def writeGate (s : State) : State :=
  if s.tLsr.getLsbD 5 then (if s.fcEn then goto .wb5 s else goto .wb6 s) else goto .wb1 s

/-- WB.5 (R151): read MSR; CTS (bit 4) releases the write, else poll again. -/
def writeCts (s : State) : State :=
  let s1 := readMsr s
  if s1.tMsr.getLsbD 4 then goto .wb6 s1 else goto .wb1 s1

/-- WB.1 to WB.6 (R151). -/
def execWriteByte (b : Byte) (s : State) : Result :=
  .next (match s.step with
    | .wb2 => drainData wbDrain s
    | .wb3 => drainMcrRead wbDrain s
    | .wb4 => drainMcrWrite wbDrain s
    | .wb5 => writeCts s
    | .wb6 => finish .zero (writeData b s)
    | _ => drainLsr wbDrain writeGate s)

/-- `finish(rec_resp(t_res))` (R154, R157). -/
def finishRecord (s : State) : State := finish (.record s.tRes) s

/-- RN.1 to RN.7 (R154). -/
def execReadNb (s : State) : Result :=
  .next (match s.step with
    | .rn2 => drainData rnDrain s
    | .rn3 => drainMcrRead rnDrain s
    | .rn4 => drainMcrWrite rnDrain s
    | .rn5 => popAndResume .rn6 finishRecord s
    | .rn6 => goto .rn7 (readMcr s)
    | .rn7 => finishRecord (writeRts true s)
    | _ => drainLsr rnDrain (goto .rn5) s)

/-- RT.1 (R157): with T = 0 no deadline; with T = 1 the tick count (R156) and the counter start. -/
def readToBegin (t : Bool) (s : State) : State :=
  if t then goto .rt2 (startTimer (setTicks s.secondTicks s)) else goto .rt3 s

/-- RT.2 (R157): form the deadline from a fresh counter sample. -/
def readToDeadline (s : State) : State :=
  let s1 := readCnt s
  goto .rt3 (formDeadline s1.tTicks s1)

/-- `after_read` of R157. -/
def afterRead (t : Bool) (s : State) : State :=
  if s.tRes.isSome then finishRecord s else if t then goto .rt10 s else goto .rt3 s

/-- RT.10 (R157): the timeout check. -/
def readToCheck (s : State) : State :=
  let s1 := readCnt s
  if s1.deadlinePassed then finish .zero s1 else goto .rt3 s1

/-- RT.1 to RT.10 (R157); `t` is `c_t`. -/
def execReadTo (t : Bool) (s : State) : Result :=
  .next (match s.step with
    | .rt2 => readToDeadline s
    | .rt3 => drainLsr rtDrain (goto .rt7) s
    | .rt4 => drainData rtDrain s
    | .rt5 => drainMcrRead rtDrain s
    | .rt6 => drainMcrWrite rtDrain s
    | .rt7 => popAndResume .rt8 (afterRead t) s
    | .rt8 => goto .rt9 (readMcr s)
    | .rt9 => afterRead t (writeRts true s)
    | .rt10 => readToCheck s
    | _ => readToBegin t s)

end Sys2Proof.Machine
end

