-- ==== Sys2Proof/Machine/Delay.lean ====
section
/-! DEFINITION. The delay family: SLEEP_MS, SLEEP_S (44_delay.md). The first label is also where a command not under
way begins (log 7). -/

namespace Sys2Proof.Machine

/-- X.1 of R171 and R172: the tick count and the counter start. -/
def sleepBegin (ticks : Nat) (form : Label) (s : State) : State :=
  goto form (startTimer (setTicks ticks s))

/-- X.2 of R171: form the deadline from a fresh counter sample. -/
def sleepDeadline (wait : Label) (s : State) : State :=
  let s1 := readCnt s
  goto wait (formDeadline s1.tTicks s1)

/-- X.3 of R171: sample the counter until the deadline is reached. -/
def sleepWait (wait : Label) (s : State) : State :=
  let s1 := readCnt s
  if s1.deadlinePassed then finish .zero s1 else goto wait s1

/-- SM.1 to SM.3 (R171). -/
def execSleepMs (s : State) : Result :=
  .next (match s.step with
    | .sm2 => sleepDeadline .sm3 s
    | .sm3 => sleepWait .sm3 s
    | _ => sleepBegin s.millisecondTicks .sm2 s)

/-- SS.1 to SS.3 (R172). -/
def execSleepS (s : State) : Result :=
  .next (match s.step with
    | .ss2 => sleepDeadline .ss3 s
    | .ss3 => sleepWait .ss3 s
    | _ => sleepBegin s.secondTicks .ss2 s)

end Sys2Proof.Machine
end

