-- ==== Sys2Proof/Machine/Poll.lean ====
section
/-! DEFINITION. The poll family: POLL (42_poll.md). The first label is also where a command not under way begins (log 7). -/

namespace Sys2Proof.Machine

/-- POLL.1 to POLL.4 (R144): one drain, whose exit finishes with the last LSR value. -/
def execPoll (s : State) : Result :=
  .next (match s.step with
    | .poll2 => drainData pollDrain s
    | .poll3 => drainMcrRead pollDrain s
    | .poll4 => drainMcrWrite pollDrain s
    | _ => drainLsr pollDrain (fun s1 => finish (.status s1.tLsr) s1) s)

end Sys2Proof.Machine
end

