-- ==== Sys2Proof/Machine/Ring.lean ====
section
/-! DEFINITION. The ring buffer family: PUSH, POP, NEARLY_FULL, BELOW (40_ring_buffer.md). Each is one internal
micro-step that finishes, so each runs whole wherever it is executed. -/

namespace Sys2Proof.Machine

/-- PUSH.1 (R105). -/
def execPush (status data : Byte) (s : State) : Result :=
  .next (finish .zero (pushRecord status data s))

/-- POP.1 (R106); `r` is local, so `t_res` keeps its value (log 9). -/
def execPop (s : State) : Result :=
  .next (finish (.record (popResult s)) (popRecord s))

/-- NF.1 (R107). -/
def execNearlyFull (s : State) : Result :=
  .next (finish (.bool (s.nearlyFull s.threshold)) s)

/-- BL.1 (R108). -/
def execBelow (s : State) : Result :=
  .next (finish (.bool (s.below s.threshold)) s)

end Sys2Proof.Machine
end

