-- ==== Sys2Proof/Machine/Timer.lean ====
section
/-! DEFINITION. The timer family: NOW, DEADLINE_AFTER, REACHED (41_timer.md). The first label is also where a command
not under way begins (log 7). -/

namespace Sys2Proof.Machine

/-- NOW.1 and NOW.2 (R126). -/
def execNow (s : State) : Result :=
  .next (match s.step with
    | .now2 => let s1 := readCnt s; finish (.counter s1.tCur) s1
    | _ => goto .now2 (startTimer s))

/-- DA.1 and DA.2 (R127). -/
def execDeadlineAfter (s : State) : Result :=
  .next (match s.step with
    | .da2 => let s1 := formDeadline s.ticks (readCnt s); finish (.deadline s1.dlEnd s1.dlStart) s1
    | _ => goto .da2 (startTimer s))

/-- RC.1 and RC.2 (R128). -/
def execReached (s : State) : Result :=
  .next (match s.step with
    | .rc2 =>
      let s1 := readCnt s
      finish (.comparison (deadlineReached s1.tCur s.startOperand s.endOperand) s1.tCur) s1
    | _ => goto .rc2 (startTimer s))

end Sys2Proof.Machine
end

