-- ==== Sys2Proof/Machine/Dispatch.lean ====
section
/-! DEFINITION. One arm per command: `exec i s` is one micro-step of command `i` (R10). -/

namespace Sys2Proof.Machine

def exec (i : Instr) (s : State) : Host.Outcome State Fault Refusal :=
  match i with
  | .push status data => Sys2Proof.Machine.execPush status data s
  | .pop => Sys2Proof.Machine.execPop s
  | .nearlyFull => Sys2Proof.Machine.execNearlyFull s
  | .below => Sys2Proof.Machine.execBelow s
  | .now => Sys2Proof.Machine.execNow s
  | .deadlineAfter => Sys2Proof.Machine.execDeadlineAfter s
  | .reached => Sys2Proof.Machine.execReached s
  | .poll => Sys2Proof.Machine.execPoll s
  | .writeByte b => Sys2Proof.Machine.execWriteByte b s
  | .readNb => Sys2Proof.Machine.execReadNb s
  | .readTo t => Sys2Proof.Machine.execReadTo t s
  | .sleepMs => Sys2Proof.Machine.execSleepMs s
  | .sleepS => Sys2Proof.Machine.execSleepS s

end Sys2Proof.Machine
end

