-- ==== Sys2Proof/Machine/HostWindow.lean ====
section
/-! DEFINITION. The host's side: the register window (R35 to R40), what a host read returns and a host write does, and the
acceptance or rejection of a command word (R78, R79). -/

namespace Sys2Proof.Machine

/-- The window offset of a host register (R35). -/
def HostReg.offset : HostReg → Nat
  | .cmd => 0x00
  | .argLo => 0x04
  | .argHi => 0x08
  | .rsp => 0x0C
  | .rspV0 => 0x10
  | .rspV1 => 0x14
  | .stat => 0x18
  | .cursors => 0x1C

/-- The eight registers of the window, in order (R35). -/
def hostRegs : List HostReg := [.cmd, .argLo, .argHi, .rsp, .rspV0, .rspV1, .stat, .cursors]

/-- The register at a bus address (R35, R59). -/
def hostRegAt (p : Params) (addr : Nat) : Option HostReg :=
  hostRegs.find? (fun r => decide (addr = p.hostBase + r.offset))

/-- The value a host read returns (R35 to R40); no side effect on URBC (R59). -/
def State.hostRead (s : State) : HostReg → Word
  | .cmd => 0#32
  | .argLo => s.argLo
  | .argHi => s.argHi
  | .rsp => s.rsp
  | .rspV0 => s.rspV0
  | .rspV1 => s.rspV1
  | .stat => s.stat
  | .cursors => s.cursors

/-- The first label of a command (R78). -/
def firstLabel : Instr → Label
  | .push _ _ => .push1
  | .pop => .pop1
  | .nearlyFull => .nf1
  | .below => .bl1
  | .now => .now1
  | .deadlineAfter => .da1
  | .reached => .rc1
  | .poll => .poll1
  | .writeByte _ => .wb1
  | .readNb => .rn1
  | .readTo _ => .rt1
  | .sleepMs => .sm1
  | .sleepS => .ss1

/-- The 64-bit operand `ARG_HI : ARG_LO` (R31, R36). -/
def packArg (hi lo : Word) : DWord := (hi.setWidth 64 <<< 32) ||| lo.setWidth 64

/-- The latching part of R78, done for every word written while idle (R31, log 8). -/
def latchCommand (w : Word) (s : State) : State :=
  { s with
    cOp := Word.op w
    cT := Word.t w
    cB0 := Word.b0 w
    cB1 := Word.b1 w
    cArg := packArg s.argHi s.argLo
    cmdLost := false }

/-- The else branch of R78: latch, then start the command or reject the word. -/
def acceptWord (w : Word) (s : State) : State :=
  match decode w with
  | .ok i => { latchCommand w s with busy := true, step := firstLabel i }
  | .error _ => reject w (latchCommand w s)

/-- A host write of `w` to CMD (R78). -/
def writeCmd (w : Word) (s : State) : State :=
  if s.busy then { s with cmdLost := true } else acceptWord w s

/-- A host write to a register of the window: R36, R78; a read-only register ignores it (R35). -/
def hostWrite (r : HostReg) (v : Word) (s : State) : State :=
  match r with
  | .cmd => writeCmd v s
  | .argLo => { s with argLo := v }
  | .argHi => { s with argHi := v }
  | .rsp | .rspV0 | .rspV1 | .stat | .cursors => s

/-- A host read: URBC is unchanged (R59); the value joins what the host has seen (log 15). -/
def hostReadMove (r : HostReg) (s : State) : State :=
  { s with env := { s.env with hostReads := s.env.hostReads ++ [(r, s.hostRead r)] } }

/-- The contract of R59 on an access: 32 bits wide, aligned, at a register; else refused by name. -/
def checkedAccess (addr bytes : Nat) (act : HostReg → State → State) (s : State) : Result :=
  if bytes ≠ 4 then .refused .hostAccessWidth
  else if addr % 4 ≠ 0 then .refused .hostAccessAlignment
  else match hostRegAt s.params addr with
    | some r => .next (act r s)
    | none => .refused .hostAccessOutsideWindow

/-- One host access (R59), atomic, between two micro-steps. -/
def hostAccess (a : HostAccess) (s : State) : Result :=
  match a with
  | .read addr bytes => checkedAccess addr bytes hostReadMove s
  | .write addr bytes v => checkedAccess addr bytes (fun r => hostWrite r v) s

end Sys2Proof.Machine
end

