-- ==== Sys2Proof/Machine/Controller.lean ====
section
/-! DEFINITION. The controller (R5): the label `step` says which command's micro-step is next (R30), the latched fields
give that command's word operands (R31, R73). -/

namespace Sys2Proof.Machine

/-- The command a label belongs to (R30), with the word operands the latch holds (R73); none at IDLE. -/
def State.running (s : State) : Option Instr :=
  match s.step with
  | .idle => none
  | .push1 => some (.push s.cB1 s.cB0)
  | .pop1 => some .pop
  | .nf1 => some .nearlyFull
  | .bl1 => some .below
  | .now1 | .now2 => some .now
  | .da1 | .da2 => some .deadlineAfter
  | .rc1 | .rc2 => some .reached
  | .poll1 | .poll2 | .poll3 | .poll4 => some .poll
  | .wb1 | .wb2 | .wb3 | .wb4 | .wb5 | .wb6 => some (.writeByte s.cB0)
  | .rn1 | .rn2 | .rn3 | .rn4 | .rn5 | .rn6 | .rn7 => some .readNb
  | .rt1 | .rt2 | .rt3 | .rt4 | .rt5 | .rt6 | .rt7 | .rt8 | .rt9 | .rt10 => some (.readTo s.cT)
  | .sm1 | .sm2 | .sm3 => some .sleepMs
  | .ss1 | .ss2 | .ss3 => some .sleepS

/-- One micro-step of the controller (R10); at IDLE it waits for a command and nothing changes (R30, log 10). -/
def controllerStep (s : State) : Result :=
  match s.running with
  | some i => exec i s
  | none => .next s

/-- The move that comes next: the head of the schedule, else the controller (log 1). -/
def State.nextMove (s : State) : Move := s.env.moves.headD .controller

/-- The state with that move taken off the schedule. -/
def State.afterMove (s : State) : State := { s with env := { s.env with moves := s.env.moves.tail } }

/-- One move of one agent (R5): a micro-step, a host access or a reset (R201). -/
def takeMove (m : Move) (s : State) : Result :=
  match m with
  | .controller => controllerStep s
  | .host a => hostAccess a s
  | .reset => .next (applyReset s)

/-- The machine as CMD's acceptance of `w` leaves it, with the controller to move next (R78): what `withFetchWord` places. -/
def placeWord (w : Word) (s : State) : State :=
  let s1 := acceptWord w { s with busy := false, step := .idle }
  { s1 with env := { s1.env with moves := .controller :: s1.env.moves } }

end Sys2Proof.Machine
end

