-- ==== Sys2Proof/Machine/Step.lean ====
section
/-! DEFINITION. One step of the machine: one move of one agent (R5, R10), and where an instruction is placed so that the
next step runs it. -/

namespace Sys2Proof.Machine

/-- The next move of the schedule, or the controller's (log 1). -/
def step (s : State) : Host.Outcome State Fault Refusal :=
  takeMove s.nextMove s.afterMove

/-- The state in which CMD has just accepted the table word `w` and the controller moves next (log 16). URBC fetches no
code (R65): a command comes to run by a host write to CMD, and this stands for that write. -/
def State.withFetchWord (s : State) (nbits w : Nat) : State :=
  match tableWord nbits w with
  | some v => placeWord v s
  | none => s

end Sys2Proof.Machine
end

