-- ==== Sys2Proof/Machine/HostIssue.lean ====
section
/-! DEFINITION. The assembler forms of R77 (with the pseudo-command READ_FOREVER) and the host actions that issuing one
expands into. -/

namespace Sys2Proof.Machine

/-- A command as written (R77), with every operand of R73 at its width. -/
inductive Asm where
  | push (status data : Byte)
  | pop
  | nearlyFull (threshold : Word)
  | below (threshold : Word)
  | now
  | deadlineAfter (ticks : DWord)
  | reached (stop start : Word)
  | poll
  | writeByte (b : Byte)
  | readNb
  | readTo (seconds : Word)
  | readForever
  | sleepMs (ms : Word)
  | sleepS (seconds : Word)
deriving DecidableEq, Repr

/-- The command issued; READ_FOREVER is READ_TO with T = 0 (R77). -/
def Asm.instr : Asm → Instr
  | .push status data => .push status data
  | .pop => .pop
  | .nearlyFull _ => .nearlyFull
  | .below _ => .below
  | .now => .now
  | .deadlineAfter _ => .deadlineAfter
  | .reached _ _ => .reached
  | .poll => .poll
  | .writeByte b => .writeByte b
  | .readNb => .readNb
  | .readTo _ => .readTo true
  | .readForever => .readTo false
  | .sleepMs _ => .sleepMs
  | .sleepS _ => .sleepS

/-- What the host writes to ARG_LO (R77 step 1, R73); 0 for a command that reads nothing of it (R74: ignored). -/
def Asm.argLo : Asm → Word
  | .nearlyFull t => t
  | .below t => t
  | .deadlineAfter k => k.extractLsb' 0 32
  | .reached stop _ => stop
  | .readTo secs => secs
  | .sleepMs ms => ms
  | .sleepS secs => secs
  | .push _ _ | .pop | .now | .poll | .writeByte _ | .readNb | .readForever => 0#32

/-- What the host writes to ARG_HI, only where the command reads `c_arg[63:32]` (R77 step 2). -/
def Asm.argHi : Asm → Option Word
  | .deadlineAfter k => some (k.extractLsb' 32 32)
  | .reached _ start => some start
  | .push _ _ | .pop | .nearlyFull _ | .below _ | .now | .poll | .writeByte _ | .readNb | .readTo _ | .readForever
  | .sleepMs _ | .sleepS _ => none

/-- A host write of a word to a register. -/
def writeMove (p : Params) (r : HostReg) (v : Word) : Move := .host (.write (p.hostBase + r.offset) 4 v)

/-- A host read of a register. -/
def readMove (p : Params) (r : HostReg) : Move := .host (.read (p.hostBase + r.offset) 4)

/-- R77 steps 1 to 3: the operand writes and the CMD write. -/
def Asm.issue (p : Params) (a : Asm) : List Move :=
  [writeMove p .argLo a.argLo]
    ++ (match a.argHi with
        | some v => [writeMove p .argHi v]
        | none => [])
    ++ [writeMove p .cmd (encode a.instr)]

/-- R77 whole, with `k` micro-steps of the controller where the host waits for STAT.BUSY = 0 (it reads STAT once the
wait is over), then the reads of RSP, RSP_V0 and RSP_V1. -/
def Asm.moves (p : Params) (a : Asm) (k : Nat) : List Move :=
  a.issue p ++ List.replicate k .controller
    ++ [readMove p .stat, readMove p .rsp, readMove p .rspV0, readMove p .rspV1]

end Sys2Proof.Machine
end

