-- ==== Sys2Proof/Safety.lean ====
section
/-! DEFINITION. The terms the claims use: the queue a ring holds, the invariants of R25, R29, R38, R53, R121 and R143, the
parts of the state a frame names, runs of commands, and the named premises of R57. -/

namespace Sys2Proof.Machine

/-! ## The ring as a queue -/

/-- The unread records, oldest first (R25 point 4). -/
def State.unread (s : State) : List Slot :=
  (List.range s.count).map (fun k => s.ringRead ((s.rp.toNat + k) % s.params.ringSlots))

/-- A bounded queue of `cap` records: what a push does to it in either mode (R101, R102). -/
def queuePush (mode : OverwriteMode) (cap : Nat) (r : Slot) (q : List Slot) : List Slot :=
  if q.length < cap then q ++ [r]
  else match mode with
    | .dropOldest => (q ++ [r]).tail
    | .holdWrite => q

/-- A host command on the ring: PUSH or POP. -/
inductive RingCommand where
  | push (status data : Byte)
  | pop
deriving DecidableEq, Repr

/-- The command word's command. -/
def RingCommand.instr : RingCommand → Instr
  | .push status data => .push status data
  | .pop => .pop

/-- The queue after a sequence of ring commands, and what the POPs among them return. -/
def queueRun (mode : OverwriteMode) (cap : Nat) : List RingCommand → List Slot → List Slot × List (Option Slot)
  | [], q => (q, [])
  | .push status data :: cs, q => queueRun mode cap cs (queuePush mode cap (packRecord status data) q)
  | .pop :: cs, q =>
    let rest := queueRun mode cap cs q.tail
    (rest.1, q.head? :: rest.2)

/-- The machine's run of the same commands, one `exec` each (each is one micro-step), with the RSP word of each POP. -/
def ringRun : List RingCommand → State → Option (State × List Word)
  | [], s => some (s, [])
  | c :: cs, s =>
    match exec c.instr s with
    | .next t =>
      match ringRun cs t with
      | some (u, rs) => some (u, if c = .pop then t.rsp :: rs else rs)
      | none => none
    | .fault _ => none
    | .refused _ => none

/-- The RSP word of a returned record (R80, R81): bit 16 set over STATUS and DATA; 0 for None. -/
def recordWord : Option Slot → Word
  | some r => 0x00010000#32 ||| r.setWidth 32
  | none => 0#32

/-! ## Invariants -/

/-- R25 points 1 and 2 with R6's ranges: the cursors are slots of the ring. -/
def CursorInv (s : State) : Prop :=
  s.params.wellFormed = true ∧ s.wp.toNat < s.params.ringSlots ∧ s.rp.toNat < s.params.ringSlots

/-- The ring RAM keeps its canonical form and lists slots of the ring only (R60). -/
def MemoryInv (s : State) : Prop := s.buf.wf ∧ ∀ x ∈ s.buf, x.1 < s.params.ringSlots

/-- R25 point 3: every unread slot has been written since reset. -/
def WrittenInv (s : State) : Prop :=
  ∀ k, k < s.count → (s.buf.read ((s.rp.toNat + k) % s.params.ringSlots)).isSome = true

/-- The ring's invariant, R25 points 1 to 3. -/
def RingInv (s : State) : Prop := CursorInv s ∧ MemoryInv s ∧ WrittenInv s

/-- R38 and R31: `busy = 1` exactly when `step ≠ IDLE`, and the latched word is that of the command whose label it is. -/
def ControlInv (s : State) : Prop :=
  (s.busy = true ↔ s.step ≠ .idle) ∧ ∀ i, s.running = some i → decode s.latchedWord = .ok i

/-- The labels whose micro-step reads MSR or accesses MCR. -/
def flowLabels : List Label :=
  [.poll3, .poll4, .wb3, .wb4, .wb5, .rn3, .rn4, .rn6, .rn7, .rt5, .rt6, .rt8, .rt9]

/-- R29: `fc_en` is FLOW_CONTROL, and with `fc_en = 0` no label that touches MSR or MCR is reached. -/
def FlowInv (s : State) : Prop :=
  s.fcEn = s.params.flowControl ∧ (s.fcEn = false → s.step ∉ flowLabels)

/-- The labels whose micro-step reads CNT_VAL. -/
def counterLabels : List Label := [.now2, .da2, .rc2, .rt2, .rt10, .sm2, .sm3, .ss2, .ss3]

/-- The labels of READ_TO after its first. -/
def readToLater : List Label := [.rt2, .rt3, .rt4, .rt5, .rt6, .rt7, .rt8, .rt9, .rt10]

/-- R121 and R157: the counter is started before any label that reads it; READ_TO reads it only with T = 1. -/
def TimerInv (s : State) : Prop :=
  (s.step ∈ counterLabels → s.timerStarted = true)
    ∧ (s.step ∈ readToLater → s.cT = true → s.timerStarted = true)
    ∧ (s.step = .rt2 ∨ s.step = .rt10 → s.cT = true)

/-- The labels whose micro-step reads DATA. -/
def dataLabels : List Label := [.poll2, .wb2, .rn2, .rt4]

/-- R53, R151, R152: DATA is read only after DR = 1; it is written only after DR = 0 with THRE = 1 and, with flow control
on, after CTS = 1. -/
def UartInv (s : State) : Prop :=
  (s.step ∈ dataLabels → s.tLsr.getLsbD 0 = true)
    ∧ (s.step = .wb5 ∨ s.step = .wb6 → s.tLsr.getLsbD 0 = false ∧ s.tLsr.getLsbD 5 = true)
    ∧ (s.step = .wb6 → s.fcEn = true → s.tMsr.getLsbD 4 = true)

/-- The labels of the write halves of `set_rts` (R143). -/
def rtsWriteLabels : List Label := [.poll4, .wb4, .rn4, .rn7, .rt6, .rt9]

/-- R143 with R64: nothing changes MCR between the two halves of `set_rts`. -/
def McrInv (s : State) : Prop := s.step ∈ rtsWriteLabels → s.tMcr = s.env.mcr

/-- R80: the reserved bits 31:19 of RSP are 0. -/
def RspInv (s : State) : Prop := s.rsp.extractLsb' 19 13 = 0#13

/-! ## Frames: what a micro-step leaves as it was -/

/-- The ring (RAM and cursors) is the same; its unspecified part too. -/
def SameRing (s t : State) : Prop :=
  t.buf = s.buf ∧ t.wp = s.wp ∧ t.rp = s.rp ∧ t.env.resets = s.env.resets

/-- The deadline registers are the same (R28). -/
def SameDeadline (s t : State) : Prop := t.dlStart = s.dlStart ∧ t.dlEnd = s.dlEnd

/-- The latched command is the same (R31). -/
def SameLatch (s t : State) : Prop :=
  t.cOp = s.cOp ∧ t.cB0 = s.cB0 ∧ t.cB1 = s.cB1 ∧ t.cT = s.cT ∧ t.cArg = s.cArg

/-- The host's operand registers, the lost-command flag, the parameters, `fc_en`, the schedule and what the host has
read are the same. -/
def SameHostSide (s t : State) : Prop :=
  t.argLo = s.argLo ∧ t.argHi = s.argHi ∧ t.cmdLost = s.cmdLost ∧ t.params = s.params ∧ t.fcEn = s.fcEn
    ∧ t.env.moves = s.env.moves ∧ t.env.hostReads = s.env.hostReads

/-- The UART temporaries are the same (R32). -/
def SameUartTemps (s t : State) : Prop :=
  t.tLsr = s.tLsr ∧ t.tData = s.tData ∧ t.tMcr = s.tMcr ∧ t.tMsr = s.tMsr ∧ t.tRes = s.tRes

/-- The timer temporaries are the same (R32). -/
def SameTimerTemps (s t : State) : Prop := t.tCur = s.tCur ∧ t.tTicks = s.tTicks

/-- `rts_shadow` and the environment's MCR are the same (R26, R54). -/
def SameRts (s t : State) : Prop := t.rtsShadow = s.rtsShadow ∧ t.env.mcr = s.env.mcr

/-- No environment input has been taken but, at most, of the counter. -/
def SameUartInputs (s t : State) : Prop :=
  t.env.lsrIn = s.env.lsrIn ∧ t.env.dataIn = s.env.dataIn ∧ t.env.msrIn = s.env.msrIn

/-- The response registers are the same (R37). -/
def SameResponse (s t : State) : Prop := t.rsp = s.rsp ∧ t.rspV0 = s.rspV0 ∧ t.rspV1 = s.rspV1

/-- The command goes on: at this label, busy as it was, its response not yet written (R30, R37, R38). -/
def GoesOnAt (l : Label) (s t : State) : Prop := t.step = l ∧ t.busy = s.busy ∧ SameResponse s t

/-- The command has finished with this response (R80). -/
def FinishedWith (rsp v0 v1 : Word) (t : State) : Prop :=
  t.rsp = rsp ∧ t.rspV0 = v0 ∧ t.rspV1 = v1 ∧ t.busy = false ∧ t.step = .idle

/-- The bus saw exactly these transactions between `s` and `t`, in this order (R62). -/
def BusSaw (txs : List BusTx) (s t : State) : Prop := t.env.trace = s.env.trace ++ txs

/-! ## Runs -/

/-- `k` steps of the machine. -/
def runSteps (k : Nat) (s : State) : Result := Host.Core.run Sys2Proof.core k s

/-! ## Premises of R57 -/

/-- `CounterRuns(δmax)` on the counter values the environment will supply (log 20): each advances on the one before it by 1
to `δmax` ticks modulo 2^32. R57 does not say whether its `k` may be 2^32 or more; here `k` is the residue `b - a`, so two
equal successive values are excluded for every `δmax` (DESIGN CHOICE, log 23). -/
def CounterRuns (dmax : Nat) : List Word → Prop
  | a :: b :: cs => 1 ≤ (b - a).toNat ∧ (b - a).toNat ≤ dmax ∧ CounterRuns dmax (b :: cs)
  | _ => True

/-- `UartQuiescesAfter(n)` on the line-status values the environment will supply: at most `n` show DR = 1. -/
def UartQuiescesAfter (n : Nat) (lsrs : List Byte) : Prop := (lsrs.filter (fun l => l.getLsbD 0)).length ≤ n

end Sys2Proof.Machine
end

