-- ==== Sys2Proof/Certificates/Slice0/Obligations.lean ====
section
/-! DEFINITION. The statements for the provers. Each docstring names the rule of spec/ it formalises; where a clause
rests on the model's choice it names the log entry. -/

open Sys2Proof Sys2Proof.Machine

/-! ## Encoding -/

/-- Words written out from R70 to R72 (95_test_vectors.md 2.1 for the rejected ones). -/
def Obligations.SpecWordsDecodeToTheirCommands : Prop :=
  decode 0x61410001#32 = .ok (.push 0x61#8 0x41#8) ∧ decode 0x00000002#32 = .ok .pop
  ∧ decode 0x00000003#32 = .ok .nearlyFull ∧ decode 0x00000004#32 = .ok .below
  ∧ decode 0x00000005#32 = .ok .now ∧ decode 0x00000006#32 = .ok .deadlineAfter
  ∧ decode 0x00000007#32 = .ok .reached ∧ decode 0x00000008#32 = .ok .poll
  ∧ decode 0x00410009#32 = .ok (.writeByte 0x41#8) ∧ decode 0x0000000A#32 = .ok .readNb
  ∧ decode 0x0000000B#32 = .ok (.readTo false) ∧ decode 0x0000010B#32 = .ok (.readTo true)
  ∧ decode 0x0000000C#32 = .ok .sleepMs ∧ decode 0x0000000D#32 = .ok .sleepS
  ∧ decode 0x00000000#32 = .error .reservedOpcode ∧ decode 0x0000000E#32 = .error .reservedOpcode
  ∧ decode 0x0000000F#32 = .error .reservedOpcode ∧ decode 0x00000012#32 = .error .reservedField
  ∧ decode 0x00000102#32 = .error .reservedField ∧ decode 0x0000020B#32 = .error .reservedField
  ∧ decode 0x00010002#32 = .error .reservedField ∧ decode 0x01410009#32 = .error .reservedField

/-- Decode and encode agree on every command, with every operand at every value (R70 to R72). -/
def Obligations.DecodeOfEncodeIsTheCommand : Prop :=
  ∀ i : Instr, decode (encode i) = .ok i

/-- A legal word is the encoding of the one command it decodes to: each word has one meaning (R72). -/
def Obligations.EncodeOfDecodeIsTheWord : Prop :=
  ∀ (w : Word) (i : Instr), decode w = .ok i → encode i = w

/-- R75: legal exactly when some row of R72 matches, and exactly when the fields are as its second sentence says. -/
def Obligations.WordsAreLegalExactlyByTheirFields : Prop :=
  ∀ w : Word,
    ((∃ i, decode w = .ok i) ↔ ∃ r ∈ opcodeRows, w &&& r.mask = r.pattern)
    ∧ ((∃ i, decode w = .ok i) ↔
        (w.extractLsb' 0 4 ≠ 0x0#4 ∧ w.extractLsb' 0 4 ≠ 0xE#4 ∧ w.extractLsb' 0 4 ≠ 0xF#4)
        ∧ w.extractLsb' 4 4 = 0#4 ∧ w.extractLsb' 9 7 = 0#7
        ∧ (w.getLsbD 8 = true → w.extractLsb' 0 4 = 0xB#4)
        ∧ (w.extractLsb' 16 8 ≠ 0#8 → w.extractLsb' 0 4 = 0x1#4 ∨ w.extractLsb' 0 4 = 0x9#4)
        ∧ (w.extractLsb' 24 8 ≠ 0#8 → w.extractLsb' 0 4 = 0x1#4))

/-! ## The step -/

/-- The controller's step is `exec` of the command whose word is latched (R30, R31, R78), on the state with the move taken
off the schedule (log 1); at IDLE it waits (log 10). `ControlInv` ties the label to the latch. -/
def Obligations.StepRunsTheLatchedCommand : Prop :=
  ∀ s : State, s.nextMove = .controller →
    (ControlInv s → ∀ i, s.step ≠ .idle → decode s.latchedWord = .ok i → step s = exec i s.afterMove)
    ∧ (∀ i, s.running = some i → step s = exec i s.afterMove)
    ∧ (s.step = .idle → step s = .next s.afterMove)

/-- A placed word is the next step's command, run from the state in which CMD has accepted the word (the model's own
`withFetchWord`, log 16). -/
def Obligations.PlacedWordRunsNext : Prop :=
  ∀ (s : State) (w : Word) (i : Instr), decode w = .ok i →
    decodeTableWord 32 w.toNat = some i
    ∧ step (s.withFetchWord 32 w.toNat) = exec i (acceptWord w { s with busy := false, step := .idle })

/-- R78 and R79: a CMD write while busy is lost; while idle it latches, then starts the command at its first label or
rejects the word; nothing else changes. That a rejected word is latched too follows R78's pseudocode (DEDUCED, log 8). -/
def Obligations.CmdWriteIsAcceptedRejectedOrLost : Prop :=
  ∀ (s : State) (w : Word), s.params.hostBase % 4 = 0 → s.nextMove = .host (.write s.params.hostBase 4 w) →
    ∃ t, step s = .next t
      ∧ (s.busy = true → t = { s.afterMove with cmdLost := true })
      ∧ (s.busy = false →
          t.cOp = w.extractLsb' 0 4 ∧ t.cT = w.getLsbD 8 ∧ t.cB0 = w.extractLsb' 16 8 ∧ t.cB1 = w.extractLsb' 24 8
          ∧ t.cArg.extractLsb' 32 32 = s.argHi ∧ t.cArg.extractLsb' 0 32 = s.argLo ∧ t.cmdLost = false
          ∧ (∀ i, decode w = .ok i →
              t.busy = true ∧ SameResponse s t
              ∧ t.step = (match i with
                  | .push _ _ => .push1 | .pop => .pop1 | .nearlyFull => .nf1 | .below => .bl1 | .now => .now1
                  | .deadlineAfter => .da1 | .reached => .rc1 | .poll => .poll1 | .writeByte _ => .wb1
                  | .readNb => .rn1 | .readTo _ => .rt1 | .sleepMs => .sm1 | .sleepS => .ss1))
          ∧ (∀ e, decode w = .error e →
              t.busy = false ∧ t.step = s.step ∧ t.rsp = 1#32 <<< 18 ∧ t.rspV0 = w ∧ t.rspV1 = 0#32)
          ∧ SameRing s t ∧ SameDeadline s t ∧ SameUartTemps s t ∧ SameTimerTemps s t ∧ SameRts s t
          ∧ t.timerStarted = s.timerStarted ∧ t.fcEn = s.fcEn ∧ t.argLo = s.argLo ∧ t.argHi = s.argHi
          ∧ t.params = s.params ∧ BusSaw [] s t)

/-- R36: ARG_LO and ARG_HI are plain registers: written whatever runs, read back, 0 after reset, latched by the next
acceptance, and changed by nothing but their own writes and reset. -/
def Obligations.OperandRegistersArePlain : Prop :=
  ∀ (s : State) (v : Word), s.params.hostBase % 4 = 0 →
    (s.nextMove = .host (.write (s.params.hostBase + 0x04) 4 v) → step s = .next { s.afterMove with argLo := v })
    ∧ (s.nextMove = .host (.write (s.params.hostBase + 0x08) 4 v) → step s = .next { s.afterMove with argHi := v })
    ∧ s.hostRead .argLo = s.argLo ∧ s.hostRead .argHi = s.argHi
    ∧ (applyReset s).argLo = 0#32 ∧ (applyReset s).argHi = 0#32
    ∧ (∀ w i, s.busy = false → decode w = .ok i →
        (writeCmd w s).argLow = s.argLo ∧ (writeCmd w s).argHigh = s.argHi)
    ∧ (∀ t, step s = .next t → s.nextMove ≠ .reset →
        ((∀ x, s.nextMove ≠ .host (.write (s.params.hostBase + 0x04) 4 x)) → t.argLo = s.argLo)
        ∧ ((∀ x, s.nextMove ≠ .host (.write (s.params.hostBase + 0x08) 4 x)) → t.argHi = s.argHi))

/-- R35, R37, R59: a read of each register of the window returns its content and changes nothing of URBC (what the host
has read is the model's own record, log 15). -/
def Obligations.HostReadsHaveNoSideEffect : Prop :=
  ∀ (s : State) (k : Nat) (v : Word), s.params.hostBase % 4 = 0 →
    (k, v) ∈ [(0x00, 0#32), (0x04, s.argLo), (0x08, s.argHi), (0x0C, s.rsp), (0x10, s.rspV0), (0x14, s.rspV1),
      (0x18, s.stat), (0x1C, s.cursors)] →
    s.nextMove = .host (.read (s.params.hostBase + k) 4) →
    ∃ r, step s = .next { s.afterMove with
      env := { s.afterMove.env with hostReads := s.env.hostReads ++ [(r, v)] } }

/-- R39: STAT's fields, its reserved bits, its reset value, and where the host reads it. -/
def Obligations.StatReadsItsFields : Prop :=
  ∀ s : State,
    s.stat.getLsbD 0 = s.busy ∧ s.stat.getLsbD 1 = s.fcEn ∧ s.stat.getLsbD 2 = s.rtsShadow
    ∧ s.stat.getLsbD 3 = s.timerStarted ∧ (s.stat.getLsbD 4 = true ↔ s.wp = s.rp)
    ∧ s.stat.getLsbD 5 = s.cmdLost ∧ (s.stat.getLsbD 6 = true ↔ s.count = s.params.ringSlots - 1)
    ∧ s.stat.extractLsb' 7 25 = 0#25
    ∧ hostRegAt s.params (s.params.hostBase + 0x18) = some .stat ∧ s.hostRead .stat = s.stat
    ∧ (2 ≤ s.params.ringSlots →
        (applyReset s).stat = if s.params.flowControl then 0x12#32 else 0x10#32)

/-- R40: CURSORS holds `wp` in bits 15:0 and `rp` in bits 31:16; 0 after reset. -/
def Obligations.CursorsReadsBothCursors : Prop :=
  ∀ s : State,
    s.cursors.extractLsb' 0 16 = s.wp ∧ s.cursors.extractLsb' 16 16 = s.rp
    ∧ s.hostRead .cursors = s.cursors ∧ hostRegAt s.params (s.params.hostBase + 0x1C) = some .cursors
    ∧ (applyReset s).cursors = 0#32

/-- R59: an access inside the contract answers a next state, any other is refused. -/
def Obligations.HostAccessOutsideTheContractIsRefused : Prop :=
  ∀ (s : State) (a : HostAccess) (addr bytes : Nat), s.params.hostBase % 4 = 0 →
    (a = .read addr bytes ∨ ∃ v, a = .write addr bytes v) → s.nextMove = .host a →
    (hostAccessWellFormed s.params addr bytes = true → ∃ t, step s = .next t)
    ∧ (bytes ≠ 4 → step s = .refused .hostAccessWidth)
    ∧ (bytes = 4 → addr % 4 ≠ 0 → step s = .refused .hostAccessAlignment)
    ∧ (bytes = 4 → addr % 4 = 0 → addr < s.params.hostBase ∨ s.params.hostBase + 0x1C < addr →
        step s = .refused .hostAccessOutsideWindow)

/-- R35: a host write to a read-only register is ignored. -/
def Obligations.ReadOnlyRegistersIgnoreWrites : Prop :=
  ∀ (s : State) (k : Nat) (v : Word), s.params.hostBase % 4 = 0 → k ∈ [0x0C, 0x10, 0x14, 0x18, 0x1C] →
    s.nextMove = .host (.write (s.params.hostBase + k) 4 v) → step s = .next s.afterMove

/-! ## Reset -/

/-- R200 to R202: reset puts every register to its value, samples FLOW_CONTROL, leaves no ring slot written, touches
nothing outside, and the block accepts a command at once. -/
def Obligations.ResetPutsEveryRegisterToItsValue : Prop :=
  ∀ s : State, s.nextMove = .reset → ∃ t, step s = .next t
    ∧ t.wp = 0#16 ∧ t.rp = 0#16 ∧ t.rtsShadow = false ∧ t.timerStarted = false ∧ t.busy = false ∧ t.cmdLost = false
    ∧ t.dlStart = 0#32 ∧ t.dlEnd = 0#32
    ∧ t.cOp = 0#4 ∧ t.cB0 = 0#8 ∧ t.cB1 = 0#8 ∧ t.cT = false ∧ t.cArg = 0#64
    ∧ t.tLsr = 0#8 ∧ t.tData = 0#8 ∧ t.tMcr = 0#8 ∧ t.tMsr = 0#8 ∧ t.tCur = 0#32 ∧ t.tRes = none ∧ t.tTicks = 0
    ∧ t.argLo = 0#32 ∧ t.argHi = 0#32 ∧ t.rsp = 0#32 ∧ t.rspV0 = 0#32 ∧ t.rspV1 = 0#32
    ∧ t.step = .idle ∧ t.fcEn = s.params.flowControl ∧ t.params = s.params
    ∧ (∀ a, t.buf.read a = none)
    ∧ BusSaw [] s t ∧ t.env.mcr = s.env.mcr ∧ t.env.lsrIn = s.env.lsrIn ∧ t.env.dataIn = s.env.dataIn
    ∧ t.env.msrIn = s.env.msrIn ∧ t.env.cntIn = s.env.cntIn
    ∧ (2 ≤ s.params.ringSlots → (t.stat = 0x10#32 ∨ t.stat = 0x12#32)) ∧ t.cursors = 0#32
    ∧ (∀ w i, decode w = .ok i → (writeCmd w t).busy = true ∧ (writeCmd w t).running = some i)

/-- R154 and R203 on an empty buffer: with flow control on, READ_NB raises RTS though there is no data, changing only
bit 1 of MCR. -/
def Obligations.ReadNbOnEmptyBufferRaisesRts : Prop :=
  ∀ (s : State) (l : Byte) (ls : List Byte), s.step = .rn1 → s.env.moves = [] → s.fcEn = true → s.wp = s.rp →
    1 ≤ s.params.resumeLevel → s.env.lsrIn = l :: ls → l.getLsbD 0 = false →
    ∃ t, runSteps 4 s = .next t ∧ FinishedWith 0#32 0#32 0#32 t ∧ t.rtsShadow = true ∧ t.env.mcr = s.env.mcr ||| 0x02#8
      ∧ BusSaw [busTx s.params .read .lsr (l.setWidth 32), busTx s.params .read .mcr (s.env.mcr.setWidth 32),
          busTx s.params .write .mcr ((s.env.mcr ||| 0x02#8).setWidth 32)] s t

/-! ## Invariants -/

/-- Every invariant holds in the machine right after reset. -/
def Obligations.InvariantsHoldAtReset : Prop :=
  RingInv State.reset ∧ ControlInv State.reset ∧ FlowInv State.reset ∧ TimerInv State.reset ∧ UartInv State.reset
  ∧ McrInv State.reset ∧ RspInv State.reset

/-- R25 points 1 to 3 and R60: every step keeps the cursors in range, the ring RAM canonical and every unread slot
written. -/
def Obligations.EveryStepKeepsTheRingInvariant : Prop :=
  ∀ s t : State, RingInv s → step s = .next t → RingInv t

/-- R38 and R31: every step keeps busy equal to "not IDLE" and the latched word that of the running command. -/
def Obligations.EveryStepKeepsTheControlInvariant : Prop :=
  ∀ s t : State, ControlInv s → step s = .next t → ControlInv t

/-- R29: every step keeps `fc_en` equal to FLOW_CONTROL and, with it 0, away from the labels that touch MSR or MCR. -/
def Obligations.EveryStepKeepsTheFlowInvariant : Prop :=
  ∀ s t : State, FlowInv s → step s = .next t → FlowInv t

/-- R29: no command changes `fc_en`; with it 0 no step reads MSR or accesses MCR. -/
def Obligations.WithoutFlowControlNoModemAccess : Prop :=
  ∀ s t : State, FlowInv s → step s = .next t →
    t.fcEn = s.params.flowControl
    ∧ (s.fcEn = false → ∀ tx, BusSaw [tx] s t → tx.reg ≠ .msr ∧ tx.reg ≠ .mcr)

/-- R121, R157: every step keeps the counter started wherever the next micro-step reads it. -/
def Obligations.EveryStepKeepsTheTimerInvariant : Prop :=
  ∀ s t : State, ControlInv s → TimerInv s → step s = .next t → TimerInv t

/-- R27 and R121: the latch is set by the one write of CNT_CTRL after reset, with CNT_START_WORD, nothing clears it
except reset, and CNT_VAL is read only with it set. -/
def Obligations.CounterIsStartedOncePerReset : Prop :=
  ∀ s t : State, step s = .next t →
    (s.nextMove = .reset → t.timerStarted = false)
    ∧ (s.nextMove ≠ .reset → s.timerStarted = true → t.timerStarted = true)
    ∧ (s.timerStarted = false → t.timerStarted = true →
        BusSaw [busTx s.params .write .cntCtrl s.params.cntStartWord] s t)
    ∧ (∀ tx, BusSaw [tx] s t → tx.reg = .cntCtrl →
        s.timerStarted = false ∧ t.timerStarted = true ∧ tx = busTx s.params .write .cntCtrl s.params.cntStartWord)
    ∧ (TimerInv s → ∀ tx, BusSaw [tx] s t → tx.reg = .cntVal → s.timerStarted = true)

/-- R53, R151, R152: every step keeps the UART's readiness known wherever the next micro-step accesses DATA. -/
def Obligations.EveryStepKeepsTheUartInvariant : Prop :=
  ∀ s t : State, UartInv s → step s = .next t → UartInv t

/-- R53 and R152: DATA is read only after an LSR value with DR = 1; it is written only after one with DR = 0 and
THRE = 1 and, with flow control on, an MSR value with CTS = 1. -/
def Obligations.DataIsAccessedOnlyWhenReady : Prop :=
  ∀ s t : State, UartInv s → step s = .next t → ∀ tx, BusSaw [tx] s t → tx.reg = .data →
    (tx.dir = .read → s.tLsr.getLsbD 0 = true)
    ∧ (tx.dir = .write → s.tLsr.getLsbD 0 = false ∧ s.tLsr.getLsbD 5 = true
        ∧ (s.fcEn = true → s.tMsr.getLsbD 4 = true))

/-- R64, R143: nothing changes MCR between the two halves of an RTS update. That `t_mcr` equals MCR after the read half
is R54's assumption that MCR reads back the value last written (DEDUCED, log 3). -/
def Obligations.EveryStepKeepsTheMcrInvariant : Prop :=
  ∀ s t : State, McrInv s → step s = .next t → McrInv t

/-- R54, R143: URBC changes no bit of MCR but bit 1 (that a read of MCR returns the value last written is R54's
assumption, log 3). -/
def Obligations.OnlyTheRtsBitOfMcrChanges : Prop :=
  ∀ s t : State, McrInv s → step s = .next t →
    t.env.mcr &&& 0xFD#8 = s.env.mcr &&& 0xFD#8
    ∧ (t.env.mcr ≠ s.env.mcr → s.step ∈ rtsWriteLabels ∧ t.rtsShadow = t.env.mcr.getLsbD 1)

/-- R26: `rts_shadow` is the RTS bit of the last MCR write, and 0 after reset. -/
def Obligations.RtsShadowIsTheLastRtsWritten : Prop :=
  ∀ s t : State, step s = .next t →
    (∀ tx, BusSaw [tx] s t → tx.dir = .write → tx.reg = .mcr → t.rtsShadow = tx.value.getLsbD 1)
    ∧ ((∀ tx, BusSaw [tx] s t → tx.dir = .write → tx.reg ≠ .mcr) →
        (s.nextMove = .reset ∧ t.rtsShadow = false) ∨ (s.nextMove ≠ .reset ∧ t.rtsShadow = s.rtsShadow))

/-- R80: every step keeps the reserved bits of RSP 0. -/
def Obligations.EveryStepKeepsRspReservedBitsZero : Prop :=
  ∀ s t : State, RspInv s → step s = .next t → RspInv t

/-- R10, R51, R58: a step makes at most one transaction, the controller alone makes it, at the register's address and
full width, in a direction R51 allows; an 8-bit register moves 8 bits. -/
def Obligations.OneTransactionAMicroStep : Prop :=
  ∀ s t : State, step s = .next t →
    BusSaw [] s t
    ∨ ∃ tx, BusSaw [tx] s t ∧ s.nextMove = .controller
        ∧ (tx.reg = .lsr ∨ tx.reg = .msr ∨ tx.reg = .cntVal → tx.dir = .read)
        ∧ (tx.reg = .cntCtrl → tx.dir = .write)
        ∧ (tx.reg = .cntVal ∨ tx.reg = .cntCtrl → tx.bytes = 4)
        ∧ (tx.reg ≠ .cntVal → tx.reg ≠ .cntCtrl → tx.bytes = 1 ∧ tx.value.toNat < 256)
        ∧ tx.addr = (match tx.reg with
            | .data => s.params.uartAddrData | .lsr => s.params.uartAddrLsr | .mcr => s.params.uartAddrMcr
            | .msr => s.params.uartAddrMsr | .cntVal => s.params.cntAddrVal | .cntCtrl => s.params.cntAddrCtrl)

/-- R37: only a finishing command, a rejected word and reset write the response registers. -/
def Obligations.ResponseChangesOnlyAtFinishOrRejection : Prop :=
  ∀ s t : State, step s = .next t →
    SameResponse s t
    ∨ (s.nextMove = .controller ∧ s.step ≠ .idle ∧ t.step = .idle ∧ t.busy = false)
    ∨ (s.busy = false ∧ ∃ w e, s.nextMove = .host (.write s.params.hostBase 4 w) ∧ decode w = .error e
        ∧ t.rsp = 1#32 <<< 18 ∧ t.rspV0 = w ∧ t.rspV1 = 0#32)
    ∨ (s.nextMove = .reset ∧ t.rsp = 0#32 ∧ t.rspV0 = 0#32 ∧ t.rspV1 = 0#32)

/-- R31: while a command runs its latch is constant, and what the host puts into ARG_LO and ARG_HI has no effect on it:
the same micro-step with other operand registers differs in those registers alone. -/
def Obligations.RunningCommandIgnoresTheOperandRegisters : Prop :=
  ∀ s t : State, step s = .next t →
    (s.busy = true → s.nextMove ≠ .reset → SameLatch s t)
    ∧ (s.nextMove = .controller → SameLatch s t ∧
        ∀ lo hi, step { s with argLo := lo, argHi := hi } = .next { t with argLo := lo, argHi := hi })

/-- R100, R22: a command stores to no ring slot but the one at `wp`, and only PUSH and the DATA micro-step of a drain
store; every other slot reads as before. -/
def Obligations.OnlyThePushedSlotChanges : Prop :=
  ∀ (i : Instr) (s t : State), exec i s = .next t →
    (∀ a, a ≠ s.wp.toNat → t.ringRead a = s.ringRead a)
    ∧ ((∀ st d, i ≠ .push st d) → s.step ∉ dataLabels → t.wp = s.wp ∧ ∀ a, t.ringRead a = s.ringRead a)

/-- The frame of every command (R21 to R32, R26, R27, R28): a micro-step of the running command leaves the operand
registers, the lost-command flag, `fc_en`, the parameters and the latch as they were, and writes each other register only
at the labels whose rule writes it. That `t_res` changes only at RN.5 and RT.7, and so not by POP, is the model's reading of
R106's pseudocode (DEDUCED, log 9). -/
def Obligations.EachRegisterChangesOnlyAtItsLabels : Prop :=
  ∀ (i : Instr) (s t : State), s.running = some i → exec i s = .next t →
    SameHostSide s t ∧ SameLatch s t ∧ t.env.resets = s.env.resets
    ∧ (s.step ∉ [.push1, .poll2, .wb2, .rn2, .rt4] → t.buf = s.buf ∧ t.wp = s.wp)
    ∧ (s.step ∉ [.push1, .pop1, .poll2, .wb2, .rn2, .rt4, .rn5, .rt7] → t.rp = s.rp)
    ∧ (s.step ∉ [.now1, .da1, .rc1, .rt1, .sm1, .ss1] → t.timerStarted = s.timerStarted)
    ∧ (s.step ∉ [.da2, .rt2, .sm2, .ss2] → SameDeadline s t)
    ∧ (s.step ∉ [.poll4, .wb4, .rn4, .rn7, .rt6, .rt9] → SameRts s t)
    ∧ (s.step ∉ [.poll1, .wb1, .rn1, .rt3] → t.tLsr = s.tLsr ∧ t.env.lsrIn = s.env.lsrIn)
    ∧ (s.step ∉ [.poll2, .wb2, .rn2, .rt4] → t.tData = s.tData ∧ t.env.dataIn = s.env.dataIn)
    ∧ (s.step ∉ [.poll3, .wb3, .rn3, .rn6, .rt5, .rt8] → t.tMcr = s.tMcr)
    ∧ (s.step ≠ .wb5 → t.tMsr = s.tMsr ∧ t.env.msrIn = s.env.msrIn)
    ∧ (s.step ∉ [.now2, .da2, .rc2, .rt2, .rt10, .sm2, .sm3, .ss2, .ss3] → t.tCur = s.tCur ∧ t.env.cntIn = s.env.cntIn)
    ∧ (s.step ∉ [.rn5, .rt7] → t.tRes = s.tRes)
    ∧ (s.step ∉ [.rt1, .sm1, .ss1] → t.tTicks = s.tTicks)

/-! ## Ring buffer family -/

/-- R101, R105 under DROP_OLDEST: the record goes to `buf[wp]`, the oldest unread record is discarded only when the
buffer was full, and PUSH touches nothing else. -/
def Obligations.PushAppendsAndDropsTheOldest : Prop :=
  ∀ (st d : Byte) (s : State), RingInv s → s.params.overwriteMode = .dropOldest →
    ∃ t r, exec (.push st d) s = .next t ∧ r.extractLsb' 8 8 = st ∧ r.extractLsb' 0 8 = d
      ∧ t.ringRead s.wp.toNat = r ∧ (∀ a, a ≠ s.wp.toNat → t.ringRead a = s.ringRead a)
      ∧ t.wp.toNat = (s.wp.toNat + 1) % s.params.ringSlots
      ∧ t.rp.toNat = (if (s.wp.toNat + 1) % s.params.ringSlots = s.rp.toNat
          then (s.rp.toNat + 1) % s.params.ringSlots else s.rp.toNat)
      ∧ t.count = min (s.count + 1) (s.params.ringSlots - 1)
      ∧ t.unread = (if s.count = s.params.ringSlots - 1 then s.unread.tail else s.unread) ++ [r]
      ∧ FinishedWith 0#32 0#32 0#32 t ∧ BusSaw [] s t ∧ SameRts s t ∧ SameDeadline s t ∧ SameLatch s t
      ∧ SameHostSide s t ∧ SameUartTemps s t ∧ SameTimerTemps s t ∧ t.timerStarted = s.timerStarted

/-- R102 under HOLD_WRITE: into a full buffer the new record is written but not readable. -/
def Obligations.PushUnderHoldWriteKeepsTheOldest : Prop :=
  ∀ (st d : Byte) (s : State), RingInv s → s.params.overwriteMode = .holdWrite →
    ∃ t r, exec (.push st d) s = .next t ∧ r.extractLsb' 8 8 = st ∧ r.extractLsb' 0 8 = d
      ∧ t.ringRead s.wp.toNat = r ∧ t.rp = s.rp
      ∧ t.wp.toNat = (if (s.wp.toNat + 1) % s.params.ringSlots = s.rp.toNat
          then s.wp.toNat else (s.wp.toNat + 1) % s.params.ringSlots)
      ∧ t.unread = (if s.count = s.params.ringSlots - 1 then s.unread else s.unread ++ [r])
      ∧ FinishedWith 0#32 0#32 0#32 t ∧ BusSaw [] s t

/-- R103, R106, R80, R81: POP returns the oldest unread record and steps `rp`; on an empty buffer it answers None and
changes no ring state. That `t_res` is left as it was is the model's reading of R106's pseudocode (DEDUCED, log 9). -/
def Obligations.PopReturnsTheOldest : Prop :=
  ∀ s : State, RingInv s → ∃ t, exec .pop s = .next t
    ∧ (s.wp = s.rp → FinishedWith 0#32 0#32 0#32 t ∧ SameRing s t ∧ s.unread = [])
    ∧ (s.wp ≠ s.rp → ∃ r, s.buf.read s.rp.toNat = some r ∧ s.unread = r :: t.unread
        ∧ FinishedWith (recordWord (some r)) 0#32 0#32 t ∧ t.buf = s.buf ∧ t.wp = s.wp
        ∧ t.rp.toNat = (s.rp.toNat + 1) % s.params.ringSlots)
    ∧ (∀ a, t.ringRead a = s.ringRead a)
    ∧ BusSaw [] s t ∧ SameRts s t ∧ SameDeadline s t ∧ SameLatch s t ∧ SameHostSide s t ∧ SameUartTemps s t
    ∧ SameTimerTemps s t ∧ t.timerStarted = s.timerStarted

/-- R104, R107: NEARLY_FULL answers whether at most `t` pushes remain before overwrite; its corner cases. -/
def Obligations.NearlyFullComparesFreeSlots : Prop :=
  ∀ s : State, RingInv s → ∃ t b, exec .nearlyFull s = .next t
    ∧ (b = true ↔ s.params.ringSlots - 1 - s.unread.length ≤ (s.cArg.extractLsb' 0 32).toNat)
    ∧ FinishedWith (if b then 0x00020000#32 else 0#32) 0#32 0#32 t
    ∧ ((s.cArg.extractLsb' 0 32).toNat = 0 → (b = true ↔ s.full = true))
    ∧ (s.params.ringSlots - 1 ≤ (s.cArg.extractLsb' 0 32).toNat → b = true)
    ∧ SameRing s t ∧ BusSaw [] s t ∧ SameRts s t ∧ SameDeadline s t ∧ SameLatch s t ∧ SameHostSide s t
    ∧ SameUartTemps s t ∧ SameTimerTemps s t ∧ t.timerStarted = s.timerStarted

/-- R104, R108: BELOW answers whether fewer than `t` unread records remain; its corner cases. -/
def Obligations.BelowComparesUnreadRecords : Prop :=
  ∀ s : State, RingInv s → ∃ t b, exec .below s = .next t
    ∧ (b = true ↔ s.unread.length < (s.cArg.extractLsb' 0 32).toNat)
    ∧ FinishedWith (if b then 0x00020000#32 else 0#32) 0#32 0#32 t
    ∧ ((s.cArg.extractLsb' 0 32).toNat = 0 → b = false)
    ∧ (s.params.ringSlots ≤ (s.cArg.extractLsb' 0 32).toNat → b = true)
    ∧ SameRing s t ∧ BusSaw [] s t ∧ SameRts s t ∧ SameDeadline s t ∧ SameLatch s t ∧ SameHostSide s t
    ∧ SameUartTemps s t ∧ SameTimerTemps s t ∧ t.timerStarted = s.timerStarted

/-- R25 point 4, R109, R159: any sequence of PUSH and POP acts as a bounded first-in first-out queue, in either overwrite
mode, and the POPs return what the queue returns. `ringRun` executes each command by `exec` alone, from whatever label the
state has (IDLE after the first), with no acceptance of a command word between. -/
def Obligations.RingCommandsActAsABoundedQueue : Prop :=
  ∀ (cs : List RingCommand) (s : State), RingInv s → ∃ t,
    ringRun cs s
      = some (t, (queueRun s.params.overwriteMode (s.params.ringSlots - 1) cs s.unread).2.map recordWord)
    ∧ t.unread = (queueRun s.params.overwriteMode (s.params.ringSlots - 1) cs s.unread).1 ∧ RingInv t

/-- R110: `k ≥ N - 1` pushes into an empty buffer leave N - 1 records, and the pops return the most recent N - 1 in
order, then None. `ringRun` executes each command by `exec` alone, with no acceptance of a command word between. -/
def Obligations.OverflowKeepsTheNewestRecords : Prop :=
  ∀ (rs : List (Byte × Byte)) (s : State), RingInv s → s.params.overwriteMode = .dropOldest → s.wp = s.rp →
    s.params.ringSlots - 1 ≤ rs.length →
    ∃ t u, ringRun (rs.map (fun r => .push r.1 r.2)) s = some (t, []) ∧ t.count = s.params.ringSlots - 1
      ∧ ringRun (List.replicate s.params.ringSlots .pop) t
          = some (u, ((rs.map (fun r => packRecord r.1 r.2)).drop (rs.length - (s.params.ringSlots - 1))).map
              (fun r => recordWord (some r)) ++ [0#32])

/-- R111: after reset POP answers None; pushing from empty, nearly full at the stop watermark begins after exactly
N - 1 - STOP_FREE pushes (964 for N = 1029 and STOP_FREE = 64) and stays. -/
def Obligations.NearlyFullBeginsAtTheStopWatermark : Prop :=
  (∀ p e, ∃ t, exec .pop (State.atReset p e) = .next t ∧ FinishedWith 0#32 0#32 0#32 t)
  ∧ ∀ (rs : List (Byte × Byte)) (s : State), RingInv s → s.wp = s.rp →
      ∃ t, ringRun (rs.map (fun r => .push r.1 r.2)) s = some (t, [])
        ∧ (t.nearlyFull s.params.stopFree = true ↔ s.params.ringSlots - 1 - s.params.stopFree ≤ rs.length)
        ∧ (s.params.ringSlots = 1029 → (t.nearlyFull 64 = true ↔ 964 ≤ rs.length))

/-! ## Timer family -/

/-- R121, R122, R126: NOW starts the counter at NOW.1, reads it once at NOW.2, and answers the value read;
at a label that is not one of the command's it does its first micro-step too, which is the model's own choice
(DESIGN CHOICE, log 7); `step` never runs it so. -/
def Obligations.NowAnswersTheCounter : Prop :=
  ∀ s : State,
    (s.step ≠ .now2 → ∃ t, exec .now s = .next t ∧ GoesOnAt .now2 s t ∧ t.timerStarted = true
      ∧ BusSaw (if s.timerStarted then [] else [busTx s.params .write .cntCtrl s.params.cntStartWord]) s t
      ∧ SameRing s t ∧ SameRts s t ∧ SameDeadline s t ∧ SameLatch s t ∧ SameHostSide s t ∧ SameUartTemps s t
      ∧ SameTimerTemps s t ∧ SameUartInputs s t)
    ∧ (s.step = .now2 → ∃ t, exec .now s = .next t ∧ FinishedWith 0#32 s.nextCnt 0#32 t ∧ t.tCur = s.nextCnt
      ∧ BusSaw [busTx s.params .read .cntVal s.nextCnt] s t ∧ t.timerStarted = s.timerStarted
      ∧ SameRing s t ∧ SameRts s t ∧ SameDeadline s t ∧ SameLatch s t ∧ SameHostSide s t ∧ SameUartTemps s t
      ∧ t.tTicks = s.tTicks ∧ SameUartInputs s t)

/-- R121, R123, R127: DEADLINE_AFTER starts the counter at DA.1; at DA.2 it samples the start, forms the end modulo 2^32
or clamps it to `start - 1`, and answers both;
at a label that is not one of the command's it does its first micro-step too, which is the model's own choice
(DESIGN CHOICE, log 7); `step` never runs it so. -/
def Obligations.DeadlineAfterFormsTheDeadline : Prop :=
  ∀ s : State,
    (s.step ≠ .da2 → ∃ t, exec .deadlineAfter s = .next t ∧ GoesOnAt .da2 s t ∧ t.timerStarted = true
      ∧ BusSaw (if s.timerStarted then [] else [busTx s.params .write .cntCtrl s.params.cntStartWord]) s t
      ∧ SameRing s t ∧ SameRts s t ∧ SameDeadline s t ∧ SameLatch s t ∧ SameHostSide s t ∧ SameUartTemps s t
      ∧ SameTimerTemps s t ∧ SameUartInputs s t)
    ∧ (s.step = .da2 → ∃ t e, exec .deadlineAfter s = .next t
      ∧ (s.cArg.toNat ≤ 0xFFFFFFFF → e.toNat = (s.nextCnt.toNat + s.cArg.toNat) % 2 ^ 32)
      ∧ (0xFFFFFFFF < s.cArg.toNat → e.toNat = (s.nextCnt.toNat + 0xFFFFFFFF) % 2 ^ 32)
      ∧ FinishedWith 0#32 e s.nextCnt t ∧ t.dlStart = s.nextCnt ∧ t.dlEnd = e ∧ t.tCur = s.nextCnt
      ∧ BusSaw [busTx s.params .read .cntVal s.nextCnt] s t ∧ t.timerStarted = s.timerStarted
      ∧ SameRing s t ∧ SameRts s t ∧ SameLatch s t ∧ SameHostSide s t ∧ SameUartTemps s t ∧ t.tTicks = s.tTicks
      ∧ SameUartInputs s t)

/-- R121, R125, R128: REACHED starts the counter at RC.1; at RC.2 it compares elapsed ticks with the duration, both modulo
2^32, on a fresh sample, and writes no deadline register;
at a label that is not one of the command's it does its first micro-step too, which is the model's own choice
(DESIGN CHOICE, log 7); `step` never runs it so. -/
def Obligations.ReachedComparesOnTheCircle : Prop :=
  ∀ s : State,
    (s.step ≠ .rc2 → ∃ t, exec .reached s = .next t ∧ GoesOnAt .rc2 s t ∧ t.timerStarted = true
      ∧ BusSaw (if s.timerStarted then [] else [busTx s.params .write .cntCtrl s.params.cntStartWord]) s t
      ∧ SameRing s t ∧ SameRts s t ∧ SameDeadline s t ∧ SameLatch s t ∧ SameHostSide s t ∧ SameUartTemps s t
      ∧ SameTimerTemps s t ∧ SameUartInputs s t)
    ∧ (s.step = .rc2 → ∃ t b, exec .reached s = .next t
      ∧ (b = true ↔
          ((s.cArg.extractLsb' 0 32).toNat + 2 ^ 32 - (s.cArg.extractLsb' 32 32).toNat) % 2 ^ 32
            ≤ (s.nextCnt.toNat + 2 ^ 32 - (s.cArg.extractLsb' 32 32).toNat) % 2 ^ 32)
      ∧ FinishedWith (if b then 0x00020000#32 else 0#32) s.nextCnt 0#32 t ∧ t.tCur = s.nextCnt
      ∧ BusSaw [busTx s.params .read .cntVal s.nextCnt] s t ∧ t.timerStarted = s.timerStarted
      ∧ SameRing s t ∧ SameRts s t ∧ SameDeadline s t ∧ SameLatch s t ∧ SameHostSide s t ∧ SameUartTemps s t
      ∧ t.tTicks = s.tTicks ∧ SameUartInputs s t)

/-- R125: the comparator is the case by case form over unsigned comparisons, wrapped and not wrapped. -/
def Obligations.ComparatorByCases : Prop :=
  ∀ cur s e : Word,
    (deadlineReached cur s e = true ↔ (e - s).toNat ≤ (cur - s).toNat)
    ∧ (s.toNat ≤ e.toNat → (deadlineReached cur s e = true ↔ e.toNat ≤ cur.toNat ∨ cur.toNat < s.toNat))
    ∧ (e.toNat < s.toNat → (deadlineReached cur s e = true ↔ e.toNat ≤ cur.toNat ∧ cur.toNat < s.toNat))

/-- R129 point 4 and R130: the true window is the 2^32 - D values from `end` on; at `cur = start` it is true only for
`end = start`, the point that R130 decides and lets a model take as a draw, which this model does not (DESIGN CHOICE,
log 13). -/
def Obligations.ComparatorWindow : Prop :=
  ∀ cur s e : Word,
    (deadlineReached cur s e = true ↔ ∃ j, j < 2 ^ 32 - (e - s).toNat ∧ cur = e + BitVec.ofNat 32 j)
    ∧ (deadlineReached s s e = true ↔ e = s)

/-- R124: every count up to 2^32 - 1 is represented exactly, and every larger one gives the deadline of 2^32 - 1. -/
def Obligations.ClampedDeadlineIsTheLongest : Prop :=
  ∀ (s : Word) (k : Nat),
    (k ≤ 0xFFFFFFFF → (deadlineEnd s k - s).toNat = k)
    ∧ (2 ^ 32 ≤ k → deadlineEnd s k = deadlineEnd s 0xFFFFFFFF ∧ deadlineEnd s k = s - 1#32
        ∧ (deadlineEnd s k - s).toNat = 2 ^ 32 - 1)

/-! ## Poll, byte I/O, delay -/

/-- R141, R142, R143: the four micro-steps of a drain, in each command that embeds one. The exit action at DR = 0 is each
command's own statement. That the MCR read returns the value last written is R54's assumption (DEDUCED, log 3). -/
def Obligations.DrainMicroSteps : Prop :=
  ∀ (i : Instr) (l0 l1 l2 l3 : Label) (s : State),
    (i = .poll ∧ [l0, l1, l2, l3] = [.poll1, .poll2, .poll3, .poll4])
      ∨ ((∃ b, i = .writeByte b) ∧ [l0, l1, l2, l3] = [.wb1, .wb2, .wb3, .wb4])
      ∨ (i = .readNb ∧ [l0, l1, l2, l3] = [.rn1, .rn2, .rn3, .rn4])
      ∨ ((∃ b, i = .readTo b) ∧ [l0, l1, l2, l3] = [.rt3, .rt4, .rt5, .rt6]) →
    (s.step = l0 → s.nextLsr.getLsbD 0 = true → ∃ t, exec i s = .next t ∧ GoesOnAt l1 s t ∧ t.tLsr = s.nextLsr
      ∧ BusSaw [busTx s.params .read .lsr (s.nextLsr.setWidth 32)] s t ∧ SameRing s t ∧ SameRts s t
      ∧ SameDeadline s t ∧ SameLatch s t ∧ SameHostSide s t ∧ t.timerStarted = s.timerStarted)
    ∧ (s.step = l1 → ∃ t, exec i s = .next t ∧ t.tData = s.nextData ∧ t.tLsr = s.tLsr
      ∧ t.buf = (pushRecord s.tLsr s.nextData s).buf ∧ t.wp = (pushRecord s.tLsr s.nextData s).wp
      ∧ t.rp = (pushRecord s.tLsr s.nextData s).rp
      ∧ BusSaw [busTx s.params .read .data (s.nextData.setWidth 32)] s t
      ∧ GoesOnAt (if s.fcEn = true ∧ s.params.ringSlots - 1 - t.count ≤ s.params.stopFree then l2 else l0) s t
      ∧ SameRts s t ∧ SameDeadline s t ∧ SameLatch s t ∧ SameHostSide s t ∧ t.timerStarted = s.timerStarted)
    ∧ (s.step = l2 → ∃ t, exec i s = .next t ∧ GoesOnAt l3 s t ∧ t.tMcr = s.env.mcr
      ∧ BusSaw [busTx s.params .read .mcr (s.env.mcr.setWidth 32)] s t ∧ SameRing s t ∧ SameRts s t
      ∧ SameDeadline s t ∧ SameLatch s t ∧ SameHostSide s t ∧ t.timerStarted = s.timerStarted)
    ∧ (s.step = l3 → ∃ t, exec i s = .next t ∧ GoesOnAt l0 s t ∧ t.rtsShadow = false
      ∧ t.env.mcr = s.tMcr &&& 0xFD#8
      ∧ BusSaw [busTx s.params .write .mcr ((s.tMcr &&& 0xFD#8).setWidth 32)] s t ∧ SameRing s t
      ∧ SameDeadline s t ∧ SameLatch s t ∧ SameHostSide s t ∧ SameUartTemps s t ∧ t.timerStarted = s.timerStarted)

/-- R144: POLL finishes in the micro-step whose LSR read shows DR = 0, answering that LSR value. -/
def Obligations.PollAnswersTheLastLineStatus : Prop :=
  ∀ s : State, s.step = .poll1 → s.nextLsr.getLsbD 0 = false →
    ∃ t, exec .poll s = .next t ∧ FinishedWith (s.nextLsr.setWidth 32 <<< 8) 0#32 0#32 t ∧ t.tLsr = s.nextLsr
      ∧ BusSaw [busTx s.params .read .lsr (s.nextLsr.setWidth 32)] s t ∧ SameRing s t ∧ SameRts s t
      ∧ SameDeadline s t ∧ SameLatch s t ∧ SameHostSide s t ∧ SameTimerTemps s t ∧ t.timerStarted = s.timerStarted

/-- R151: the gate on THRE, the CTS test, and the write that finishes WRITE_BYTE. -/
def Obligations.WriteByteIsGatedAndThenWrites : Prop :=
  ∀ (b : Byte) (s : State),
    (s.step = .wb1 → s.nextLsr.getLsbD 0 = false → ∃ t, exec (.writeByte b) s = .next t ∧ t.tLsr = s.nextLsr
      ∧ GoesOnAt (if s.nextLsr.getLsbD 5 = false then .wb1 else if s.fcEn = false then .wb6 else .wb5) s t
      ∧ BusSaw [busTx s.params .read .lsr (s.nextLsr.setWidth 32)] s t ∧ SameRing s t ∧ SameRts s t
      ∧ SameDeadline s t ∧ SameLatch s t ∧ SameHostSide s t ∧ SameTimerTemps s t ∧ t.timerStarted = s.timerStarted)
    ∧ (s.step = .wb5 → ∃ t, exec (.writeByte b) s = .next t ∧ t.tMsr = s.nextMsr
      ∧ GoesOnAt (if s.nextMsr.getLsbD 4 = true then .wb6 else .wb1) s t
      ∧ BusSaw [busTx s.params .read .msr (s.nextMsr.setWidth 32)] s t ∧ SameRing s t ∧ SameRts s t
      ∧ SameDeadline s t ∧ SameLatch s t ∧ SameHostSide s t ∧ SameTimerTemps s t ∧ t.timerStarted = s.timerStarted)
    ∧ (s.step = .wb6 → ∃ t, exec (.writeByte b) s = .next t ∧ FinishedWith 0#32 0#32 0#32 t
      ∧ BusSaw [busTx s.params .write .data (b.setWidth 32)] s t ∧ SameRing s t ∧ SameRts s t
      ∧ SameDeadline s t ∧ SameLatch s t ∧ SameHostSide s t ∧ SameUartTemps s t ∧ SameTimerTemps s t
      ∧ t.timerStarted = s.timerStarted)

/-- R153, R154: READ_NB after its drain: the pop, the resume check, the RTS update, the answer. That the MCR read at RN.6
returns the value last written is R54's assumption (DEDUCED, log 3). -/
def Obligations.ReadNbPopsAndResumes : Prop :=
  ∀ s : State, RingInv s →
    (s.step = .rn1 → s.nextLsr.getLsbD 0 = false → ∃ t, exec .readNb s = .next t ∧ GoesOnAt .rn5 s t
      ∧ t.tLsr = s.nextLsr ∧ BusSaw [busTx s.params .read .lsr (s.nextLsr.setWidth 32)] s t ∧ SameRing s t
      ∧ SameRts s t ∧ SameDeadline s t ∧ SameLatch s t ∧ SameHostSide s t)
    ∧ (s.step = .rn5 → ∃ t, exec .readNb s = .next t ∧ t.tRes = s.unread.head? ∧ t.unread = s.unread.tail
      ∧ t.buf = s.buf ∧ t.wp = s.wp ∧ BusSaw [] s t
      ∧ (s.fcEn = true → t.unread.length < s.params.resumeLevel → GoesOnAt .rn6 s t)
      ∧ (s.fcEn = false ∨ s.params.resumeLevel ≤ t.unread.length →
          FinishedWith (recordWord s.unread.head?) 0#32 0#32 t)
      ∧ SameRts s t ∧ SameDeadline s t ∧ SameLatch s t ∧ SameHostSide s t ∧ t.timerStarted = s.timerStarted)
    ∧ (s.step = .rn6 → ∃ t, exec .readNb s = .next t ∧ GoesOnAt .rn7 s t ∧ t.tMcr = s.env.mcr ∧ t.tRes = s.tRes
      ∧ BusSaw [busTx s.params .read .mcr (s.env.mcr.setWidth 32)] s t ∧ SameRing s t ∧ SameRts s t
      ∧ SameDeadline s t ∧ SameLatch s t ∧ SameHostSide s t)
    ∧ (s.step = .rn7 → ∃ t, exec .readNb s = .next t ∧ FinishedWith (recordWord s.tRes) 0#32 0#32 t
      ∧ t.rtsShadow = true ∧ t.env.mcr = (s.tMcr &&& 0xFD#8) ||| 0x02#8
      ∧ BusSaw [busTx s.params .write .mcr (((s.tMcr &&& 0xFD#8) ||| 0x02#8).setWidth 32)] s t ∧ SameRing s t
      ∧ SameDeadline s t ∧ SameLatch s t ∧ SameHostSide s t ∧ SameUartTemps s t)

/-- R156, R157: READ_TO around its drain, for T = 0 and T = 1. That the MCR read at RT.8 returns the value last written is
R54's assumption (DEDUCED, log 3). -/
def Obligations.ReadToReadsFirstThenChecksTheDeadline : Prop :=
  ∀ (b : Bool) (s : State), RingInv s →
    (s.step = .rt1 → ∃ t, exec (.readTo b) s = .next t ∧ SameRing s t ∧ SameRts s t ∧ SameDeadline s t
      ∧ SameLatch s t ∧ SameHostSide s t
      ∧ (b = false → GoesOnAt .rt3 s t ∧ BusSaw [] s t ∧ t.timerStarted = s.timerStarted)
      ∧ (b = true → GoesOnAt .rt2 s t ∧ t.timerStarted = true
          ∧ t.tTicks = (s.cArg.extractLsb' 0 32).toNat * 1000 * s.params.ticksPerMs
          ∧ BusSaw (if s.timerStarted then [] else [busTx s.params .write .cntCtrl s.params.cntStartWord]) s t))
    ∧ (s.step = .rt2 → ∃ t, exec (.readTo b) s = .next t ∧ GoesOnAt .rt3 s t ∧ t.dlStart = s.nextCnt
      ∧ t.dlEnd = deadlineEnd s.nextCnt s.tTicks ∧ BusSaw [busTx s.params .read .cntVal s.nextCnt] s t
      ∧ SameRing s t ∧ SameRts s t ∧ SameLatch s t ∧ SameHostSide s t)
    ∧ (s.step = .rt3 → s.nextLsr.getLsbD 0 = false → ∃ t, exec (.readTo b) s = .next t ∧ GoesOnAt .rt7 s t
      ∧ BusSaw [busTx s.params .read .lsr (s.nextLsr.setWidth 32)] s t ∧ SameRing s t ∧ SameDeadline s t)
    ∧ (s.step = .rt7 → ∃ t, exec (.readTo b) s = .next t ∧ t.tRes = s.unread.head? ∧ t.unread = s.unread.tail
      ∧ t.buf = s.buf ∧ t.wp = s.wp ∧ BusSaw [] s t ∧ SameRts s t ∧ SameDeadline s t ∧ SameLatch s t ∧ SameHostSide s t
      ∧ (s.fcEn = true → t.unread.length < s.params.resumeLevel → GoesOnAt .rt8 s t)
      ∧ (s.fcEn = false ∨ s.params.resumeLevel ≤ t.unread.length →
          (∀ r, s.unread.head? = some r → FinishedWith (recordWord (some r)) 0#32 0#32 t)
          ∧ (s.unread = [] → GoesOnAt (if b then .rt10 else .rt3) s t)))
    ∧ (s.step = .rt8 → ∃ t, exec (.readTo b) s = .next t ∧ GoesOnAt .rt9 s t ∧ t.tMcr = s.env.mcr ∧ t.tRes = s.tRes
      ∧ BusSaw [busTx s.params .read .mcr (s.env.mcr.setWidth 32)] s t ∧ SameRing s t ∧ SameRts s t ∧ SameDeadline s t)
    ∧ (s.step = .rt9 → ∃ t, exec (.readTo b) s = .next t ∧ t.rtsShadow = true
      ∧ t.env.mcr = (s.tMcr &&& 0xFD#8) ||| 0x02#8
      ∧ BusSaw [busTx s.params .write .mcr (((s.tMcr &&& 0xFD#8) ||| 0x02#8).setWidth 32)] s t ∧ SameRing s t
      ∧ SameDeadline s t
      ∧ (∀ r, s.tRes = some r → FinishedWith (recordWord (some r)) 0#32 0#32 t)
      ∧ (s.tRes = none → GoesOnAt (if b then .rt10 else .rt3) s t))
    ∧ (s.step = .rt10 → ∃ t, exec (.readTo b) s = .next t ∧ t.tCur = s.nextCnt
      ∧ BusSaw [busTx s.params .read .cntVal s.nextCnt] s t ∧ SameRing s t ∧ SameRts s t ∧ SameDeadline s t
      ∧ (deadlineReached s.nextCnt s.dlStart s.dlEnd = true → FinishedWith 0#32 0#32 0#32 t)
      ∧ (deadlineReached s.nextCnt s.dlStart s.dlEnd = false → GoesOnAt .rt3 s t))

/-- R171, R172: the three micro-steps of SLEEP_MS and SLEEP_S; the tick product is exact. -/
def Obligations.SleepWaitsForItsDeadline : Prop :=
  ∀ (i : Instr) (l1 l2 l3 : Label) (k : Nat) (s : State),
    (i = .sleepMs ∧ [l1, l2, l3] = [.sm1, .sm2, .sm3]
        ∧ k = (s.cArg.extractLsb' 0 32).toNat * s.params.ticksPerMs)
      ∨ (i = .sleepS ∧ [l1, l2, l3] = [.ss1, .ss2, .ss3]
        ∧ k = (s.cArg.extractLsb' 0 32).toNat * 1000 * s.params.ticksPerMs) →
    (s.step = l1 → ∃ t, exec i s = .next t ∧ GoesOnAt l2 s t ∧ t.tTicks = k ∧ t.timerStarted = true
      ∧ BusSaw (if s.timerStarted then [] else [busTx s.params .write .cntCtrl s.params.cntStartWord]) s t
      ∧ SameRing s t ∧ SameRts s t ∧ SameDeadline s t ∧ SameLatch s t ∧ SameHostSide s t ∧ SameUartTemps s t)
    ∧ (s.step = l2 → ∃ t, exec i s = .next t ∧ GoesOnAt l3 s t ∧ t.dlStart = s.nextCnt
      ∧ t.dlEnd = deadlineEnd s.nextCnt s.tTicks ∧ BusSaw [busTx s.params .read .cntVal s.nextCnt] s t
      ∧ SameRing s t ∧ SameRts s t ∧ SameLatch s t ∧ SameHostSide s t ∧ SameUartTemps s t)
    ∧ (s.step = l3 → ∃ t, exec i s = .next t ∧ BusSaw [busTx s.params .read .cntVal s.nextCnt] s t
      ∧ t.tCur = s.nextCnt ∧ SameRing s t ∧ SameRts s t ∧ SameDeadline s t ∧ SameLatch s t ∧ SameHostSide s t
      ∧ SameUartTemps s t
      ∧ (deadlineReached s.nextCnt s.dlStart s.dlEnd = true → FinishedWith 0#32 0#32 0#32 t)
      ∧ (deadlineReached s.nextCnt s.dlStart s.dlEnd = false → GoesOnAt l3 s t))

/-- R170: the delay commands make no LSR, DATA, MCR or MSR access, and do not push, pop or drive RTS. -/
def Obligations.DelaysNeverTouchTheUart : Prop :=
  ∀ (i : Instr) (s t : State), i = .sleepMs ∨ i = .sleepS → exec i s = .next t →
    SameRing s t ∧ SameRts s t ∧ SameUartTemps s t ∧ SameUartInputs s t
    ∧ (BusSaw [] s t ∨ ∃ tx, BusSaw [tx] s t ∧ (tx.reg = .cntVal ∨ tx.reg = .cntCtrl))

/-- R144, R145: with `n` bytes waiting and then DR = 0, POLL finishes in 2n + 1 micro-steps, having read LSR and DATA
alternately and pushed each byte once, in order, with the LSR value read just before it; the buffer keeps the newest.
Without flow control and under DROP_OLDEST; PollWithFlowControlDeassertsRts and DrainMicroSteps say the rest. -/
def Obligations.PollDrainsEveryWaitingByte : Prop :=
  ∀ (s : State) (ls ds rl rd : List Byte) (l : Byte), RingInv s → s.params.overwriteMode = .dropOldest →
    s.step = .poll1 → s.env.moves = [] → s.fcEn = false →
    s.env.lsrIn = ls ++ l :: rl → s.env.dataIn = ds ++ rd → ds.length = ls.length →
    (∀ x ∈ ls, x.getLsbD 0 = true) → l.getLsbD 0 = false →
    ∃ t, runSteps (2 * ls.length + 1) s = .next t ∧ FinishedWith (l.setWidth 32 <<< 8) 0#32 0#32 t
      ∧ t.unread = (s.unread ++ List.zipWith packRecord ls ds).drop (s.unread.length + ls.length - (s.params.ringSlots - 1))
      ∧ BusSaw ((ls.zip ds).flatMap (fun x =>
          [busTx s.params .read .lsr (x.1.setWidth 32), busTx s.params .read .data (x.2.setWidth 32)])
          ++ [busTx s.params .read .lsr (l.setWidth 32)]) s t
      ∧ t.env.lsrIn = rl ∧ t.env.dataIn = rd

/-- R145 points 1, 2 and 4 with flow control on: POLL finishes, and when its last push leaves at most STOP_FREE free slots
(if any push does, the last one does), it leaves RTS at 0 and every other bit of MCR as it was; otherwise RTS is not
driven. That MCR reads back what was written is R54's assumption (log 3). -/
def Obligations.PollWithFlowControlDeassertsRts : Prop :=
  ∀ (s : State) (ls ds rl rd : List Byte) (l : Byte), RingInv s →
    s.step = .poll1 → s.env.moves = [] → s.fcEn = true →
    s.env.lsrIn = ls ++ l :: rl → s.env.dataIn = ds ++ rd → ds.length = ls.length →
    (∀ x ∈ ls, x.getLsbD 0 = true) → l.getLsbD 0 = false →
    ∃ k t, k ≤ 4 * ls.length + 1 ∧ runSteps k s = .next t ∧ FinishedWith (l.setWidth 32 <<< 8) 0#32 0#32 t
      ∧ t.count = min (s.count + ls.length) (s.params.ringSlots - 1) ∧ t.env.lsrIn = rl ∧ t.env.dataIn = rd
      ∧ (ls ≠ [] → s.params.ringSlots - 1 - t.count ≤ s.params.stopFree →
          t.rtsShadow = false ∧ t.env.mcr = s.env.mcr &&& 0xFD#8)
      ∧ (ls = [] ∨ s.params.stopFree < s.params.ringSlots - 1 - t.count → SameRts s t)

/-- R57, R145 point 3, R218: under `UartQuiescesAfter(n)` POLL ends, within 4n + 1 micro-steps, with flow control on or off,
whatever the ring holds and whatever DATA returns. The premise is on the listed inputs (DESIGN CHOICE, log 20). -/
def Obligations.PollEndsUnderUartQuiesces : Prop :=
  ∀ (s : State) (n : Nat), s.step = .poll1 → s.env.moves = [] →
    UartQuiescesAfter n s.env.lsrIn → n < s.env.lsrIn.length →
    ∃ k t, k ≤ 4 * n + 1 ∧ runSteps k s = .next t
      ∧ ∃ l, l ∈ s.env.lsrIn ∧ l.getLsbD 0 = false ∧ FinishedWith (l.setWidth 32 <<< 8) 0#32 0#32 t

/-- R173: under `CounterRuns(δmax)` with `δmax ≤ 2^32 - D` a waiting sleep ends, within D + 1 samples. The premise is on the
listed inputs (DESIGN CHOICE, log 20) and reads R57's advance as a residue modulo 2^32 (DESIGN CHOICE, log 23). -/
def Obligations.SleepEndsUnderCounterRuns : Prop :=
  ∀ (s : State) (dmax : Nat), s.step = .sm3 ∨ s.step = .ss3 → s.env.moves = [] →
    CounterRuns dmax s.env.cntIn → dmax ≤ 2 ^ 32 - (s.dlEnd - s.dlStart).toNat →
    (s.dlEnd - s.dlStart).toNat < s.env.cntIn.length →
    ∃ k t, k ≤ (s.dlEnd - s.dlStart).toNat + 1 ∧ runSteps k s = .next t ∧ FinishedWith 0#32 0#32 0#32 t
      ∧ BusSaw ((s.env.cntIn.take k).map (busTx s.params .read .cntVal)) s t

/-- R157, R158: READ_TO 0 on an empty buffer with no incoming data makes exactly one drain and one deadline check, and
answers None. That the MCR read returns the value last written, and so the byte written back, is R54's assumption (DEDUCED,
log 3). -/
def Obligations.ReadToZeroFinishesAfterOneAttempt : Prop :=
  ∀ (s : State) (c0 c1 : Word) (cs : List Word) (l : Byte) (ls : List Byte), s.step = .rt1 → s.cT = true →
    s.cArg.extractLsb' 0 32 = 0#32 → s.env.moves = [] → s.wp = s.rp →
    s.env.cntIn = c0 :: c1 :: cs → s.env.lsrIn = l :: ls → l.getLsbD 0 = false →
    ∃ t, runSteps (if s.fcEn && decide (0 < s.params.resumeLevel) then 7 else 5) s = .next t
      ∧ FinishedWith 0#32 0#32 0#32 t ∧ t.dlStart = c0 ∧ t.dlEnd = c0
      ∧ BusSaw ((if s.timerStarted then [] else [busTx s.params .write .cntCtrl s.params.cntStartWord])
          ++ [busTx s.params .read .cntVal c0, busTx s.params .read .lsr (l.setWidth 32)]
          ++ (if s.fcEn && decide (0 < s.params.resumeLevel) then
                [busTx s.params .read .mcr (s.env.mcr.setWidth 32),
                  busTx s.params .write .mcr ((s.env.mcr ||| 0x02#8).setWidth 32)] else [])
          ++ [busTx s.params .read .cntVal c1]) s t

/-- R77, R73, R78: the host actions of issuing a command start that command with its operands. -/
def Obligations.IssuingACommandStartsItWithItsOperands : Prop :=
  ∀ (a : Asm) (s : State) (rest : List Move), s.params.hostBase % 4 = 0 → s.busy = false →
    s.env.moves = a.issue s.params ++ rest →
    ∃ t, runSteps (a.issue s.params).length s = .next t ∧ t.busy = true ∧ t.running = some a.instr
      ∧ t.env.moves = rest ∧ BusSaw [] s t ∧ SameRing s t
      ∧ (match a with
          | .push st d => a.instr = .push st d
          | .writeByte b => a.instr = .writeByte b
          | .nearlyFull n => t.threshold = n.toNat
          | .below n => t.threshold = n.toNat
          | .deadlineAfter k => t.ticks = k.toNat
          | .reached e b => t.endOperand = e ∧ t.startOperand = b
          | .readTo n => t.seconds = n.toNat ∧ t.cT = true
          | .readForever => t.cT = false
          | .sleepMs n => t.milliseconds = n.toNat
          | .sleepS n => t.seconds = n.toNat
          | .pop | .now | .poll | .readNb => True)
end

