-- ==== Sys2Proof/Laws/Decode.lean ====
section
/-! SUPPORT. The fields of a packed command word, and what a successful decoding says: a row of R72 matched. -/

namespace Sys2Proof

/-- The bits of a packed word (R70). -/
theorem packWord_getLsbD (b1 b0 : Byte) (t : Bool) (op : BitVec 4) (k : Nat) (hk : k < 32) :
    (packWord b1 b0 t op).getLsbD k = if k < 4 then op.getLsbD k else if k < 8 then false else if k = 8 then t
      else if k < 16 then false else if k < 24 then b0.getLsbD (k - 16) else b1.getLsbD (k - 24) := by
  unfold packWord
  simp only [BitVec.getLsbD_or, BitVec.getLsbD_shiftLeft, BitVec.getLsbD_setWidth]
  interval_cases k <;> simp

section
variable (b1 b0 : Byte) (t : Bool) (op : BitVec 4)

theorem packWord_op : (packWord b1 b0 t op).extractLsb' 0 4 = op := by
  apply BitVec.eq_of_getLsbD_eq; intro k hk
  rw [BitVec.getLsbD_extractLsb', packWord_getLsbD _ _ _ _ _ (by omega)]; interval_cases k <;> simp

theorem packWord_z0 : (packWord b1 b0 t op).extractLsb' 4 4 = 0#4 := by
  apply BitVec.eq_of_getLsbD_eq; intro k hk
  rw [BitVec.getLsbD_extractLsb', packWord_getLsbD _ _ _ _ _ (by omega)]; interval_cases k <;> simp

theorem packWord_t : (packWord b1 b0 t op).getLsbD 8 = t := by
  rw [packWord_getLsbD _ _ _ _ _ (by omega)]; simp

theorem packWord_z1 : (packWord b1 b0 t op).extractLsb' 9 7 = 0#7 := by
  apply BitVec.eq_of_getLsbD_eq; intro k hk
  rw [BitVec.getLsbD_extractLsb', packWord_getLsbD _ _ _ _ _ (by omega)]; interval_cases k <;> simp

theorem packWord_b0 : (packWord b1 b0 t op).extractLsb' 16 8 = b0 := by
  apply BitVec.eq_of_getLsbD_eq; intro k hk
  rw [BitVec.getLsbD_extractLsb', packWord_getLsbD _ _ _ _ _ (by omega)]; interval_cases k <;> simp

theorem packWord_b1 : (packWord b1 b0 t op).extractLsb' 24 8 = b1 := by
  apply BitVec.eq_of_getLsbD_eq; intro k hk
  rw [BitVec.getLsbD_extractLsb', packWord_getLsbD _ _ _ _ _ (by omega)]; interval_cases k <;> simp

/-- Whether a packed word is well formed depends on its fields alone (R75). -/
theorem packWord_wellFormed : Word.wellFormed (packWord b1 b0 t op) =
    (!(op == 0x0#4 || op == 0xE#4 || op == 0xF#4) && (!t || op == 0xB#4)
      && (b0 == 0#8 || op == 0x1#4 || op == 0x9#4) && (b1 == 0#8 || op == 0x1#4)) := by
  simp only [Word.wellFormed, packWord_op, packWord_z0, packWord_t, packWord_z1, packWord_b0, packWord_b1, beq_self_eq_true,
    Bool.and_true]

end

/-- A word that matches a row has that row's OP. -/
theorem opcodeRow_op {w : Word} {r : OpcodeRow} (hr : r ∈ opcodeRows) (h : w &&& r.mask = r.pattern) :
    Word.op w = r.pattern.extractLsb' 0 4 := by
  rw [← h]
  apply BitVec.eq_of_getLsbD_eq; intro k hk
  have : r.mask.getLsbD k = true := by
    simp only [opcodeRows, List.mem_cons, List.not_mem_nil, or_false] at hr
    rcases hr with rfl | rfl | rfl | rfl | rfl | rfl | rfl | rfl | rfl | rfl | rfl | rfl | rfl <;>
      interval_cases k <;> rfl
  simp [Word.op, this]

/-- "At most one row matches any word, because the rows differ in OP" (R72). -/
theorem opcodeRows_differ :
    opcodeRows.Pairwise (fun a b => a.pattern.extractLsb' 0 4 ≠ b.pattern.extractLsb' 0 4) := by
  unfold opcodeRows
  simp only [List.pairwise_cons, List.mem_cons, List.not_mem_nil, or_false, forall_eq_or_imp, forall_eq]
  refine ⟨?_, ?_, ?_, ?_, ?_, ?_, ?_, ?_, ?_, ?_, ?_, ?_, ?_⟩ <;> simp

/-- The row that matches is the row the decoder finds. -/
theorem opcodeRows_find {w : Word} {r : OpcodeRow} (hr : r ∈ opcodeRows) (h : w &&& r.mask = r.pattern) :
    opcodeRows.find? (fun r => r.matchesWord w) = some r := by
  have hop := opcodeRow_op hr h
  have hp := opcodeRows_differ
  generalize hl : opcodeRows = l at *
  have hsub : ∀ x ∈ l, x ∈ opcodeRows := by rw [hl]; exact fun _ h => h
  clear hl
  induction l with
  | nil => simp at hr
  | cons a l ih =>
    rw [List.pairwise_cons] at hp
    by_cases ha : a.matchesWord w = true
    · simp only [List.find?_cons, ha]
      have hopa := opcodeRow_op (hsub a (by simp)) (by simpa [OpcodeRow.matchesWord] using ha)
      rcases List.mem_cons.1 hr with rfl | hr
      · rfl
      · exact absurd (hopa.symm.trans hop) (hp.1 r hr)
    · simp only [List.find?_cons, ha]
      rcases List.mem_cons.1 hr with rfl | hr
      · exact absurd (by simpa [OpcodeRow.matchesWord] using h) ha
      · exact ih hr hp.2 (fun x hx => hsub x (List.mem_cons_of_mem _ hx))

/-- What a successful decoding says (R75). -/
theorem decode_ok_iff {w : Word} {i : Instr} :
    decode w = .ok i ↔ ∃ r ∈ opcodeRows, w &&& r.mask = r.pattern ∧ r.build w = i := by
  constructor
  · intro h
    unfold decode at h
    split at h
    · rename_i r hr
      have hm := List.find?_some hr
      exact ⟨r, List.mem_of_find?_eq_some hr, by simpa [OpcodeRow.matchesWord] using hm, by simpa using h⟩
    · split at h <;> cases h
  · rintro ⟨r, hr, h, rfl⟩
    unfold decode; rw [opcodeRows_find hr h]

end Sys2Proof
end

