-- ==== Sys2Proof/Laws/State.lean ====
section
/-! SUPPORT. What every named update of State leaves in every field, each equation true by `rfl`: one theorem an update, a
conjunction over the fields, which `simp` uses as one rewrite rule a field. -/

namespace Sys2Proof.Machine

@[simp] theorem goto_fields (l : Label) (s : State) :
    (goto l s).params = s.params ∧ (goto l s).buf = s.buf ∧ (goto l s).wp = s.wp ∧ (goto l s).rp = s.rp
    ∧ (goto l s).rtsShadow = s.rtsShadow ∧ (goto l s).timerStarted = s.timerStarted ∧ (goto l s).dlStart = s.dlStart
    ∧ (goto l s).dlEnd = s.dlEnd ∧ (goto l s).fcEn = s.fcEn ∧ (goto l s).step = l ∧ (goto l s).cOp = s.cOp
    ∧ (goto l s).cB0 = s.cB0 ∧ (goto l s).cB1 = s.cB1 ∧ (goto l s).cT = s.cT ∧ (goto l s).cArg = s.cArg
    ∧ (goto l s).tLsr = s.tLsr ∧ (goto l s).tData = s.tData ∧ (goto l s).tMcr = s.tMcr ∧ (goto l s).tMsr = s.tMsr
    ∧ (goto l s).tCur = s.tCur ∧ (goto l s).tRes = s.tRes ∧ (goto l s).tTicks = s.tTicks ∧ (goto l s).argLo = s.argLo
    ∧ (goto l s).argHi = s.argHi ∧ (goto l s).rsp = s.rsp ∧ (goto l s).rspV0 = s.rspV0 ∧ (goto l s).rspV1 = s.rspV1
    ∧ (goto l s).busy = s.busy ∧ (goto l s).cmdLost = s.cmdLost ∧ (goto l s).env = s.env := by
  and_intros <;> rfl

@[simp] theorem finish_fields (r : Response) (s : State) :
    (finish r s).params = s.params ∧ (finish r s).buf = s.buf ∧ (finish r s).wp = s.wp ∧ (finish r s).rp = s.rp
    ∧ (finish r s).rtsShadow = s.rtsShadow ∧ (finish r s).timerStarted = s.timerStarted
    ∧ (finish r s).dlStart = s.dlStart ∧ (finish r s).dlEnd = s.dlEnd ∧ (finish r s).fcEn = s.fcEn
    ∧ (finish r s).step = .idle ∧ (finish r s).cOp = s.cOp ∧ (finish r s).cB0 = s.cB0 ∧ (finish r s).cB1 = s.cB1
    ∧ (finish r s).cT = s.cT ∧ (finish r s).cArg = s.cArg ∧ (finish r s).tLsr = s.tLsr ∧ (finish r s).tData = s.tData
    ∧ (finish r s).tMcr = s.tMcr ∧ (finish r s).tMsr = s.tMsr ∧ (finish r s).tCur = s.tCur
    ∧ (finish r s).tRes = s.tRes ∧ (finish r s).tTicks = s.tTicks ∧ (finish r s).argLo = s.argLo
    ∧ (finish r s).argHi = s.argHi ∧ (finish r s).rsp = r.rsp ∧ (finish r s).rspV0 = r.v0 ∧ (finish r s).rspV1 = r.v1
    ∧ (finish r s).busy = false ∧ (finish r s).cmdLost = s.cmdLost ∧ (finish r s).env = s.env := by
  and_intros <;> rfl

@[simp] theorem reject_fields (w : Word) (s : State) :
    (reject w s).params = s.params ∧ (reject w s).buf = s.buf ∧ (reject w s).wp = s.wp ∧ (reject w s).rp = s.rp
    ∧ (reject w s).rtsShadow = s.rtsShadow ∧ (reject w s).timerStarted = s.timerStarted
    ∧ (reject w s).dlStart = s.dlStart ∧ (reject w s).dlEnd = s.dlEnd ∧ (reject w s).fcEn = s.fcEn
    ∧ (reject w s).step = s.step ∧ (reject w s).cOp = s.cOp ∧ (reject w s).cB0 = s.cB0 ∧ (reject w s).cB1 = s.cB1
    ∧ (reject w s).cT = s.cT ∧ (reject w s).cArg = s.cArg ∧ (reject w s).tLsr = s.tLsr ∧ (reject w s).tData = s.tData
    ∧ (reject w s).tMcr = s.tMcr ∧ (reject w s).tMsr = s.tMsr ∧ (reject w s).tCur = s.tCur
    ∧ (reject w s).tRes = s.tRes ∧ (reject w s).tTicks = s.tTicks ∧ (reject w s).argLo = s.argLo
    ∧ (reject w s).argHi = s.argHi ∧ (reject w s).rsp = (Response.illegal w).rsp
    ∧ (reject w s).rspV0 = (Response.illegal w).v0 ∧ (reject w s).rspV1 = (Response.illegal w).v1
    ∧ (reject w s).busy = s.busy ∧ (reject w s).cmdLost = s.cmdLost ∧ (reject w s).env = s.env := by
  and_intros <;> rfl

@[simp] theorem readLsr_fields (s : State) :
    (readLsr s).params = s.params ∧ (readLsr s).buf = s.buf ∧ (readLsr s).wp = s.wp ∧ (readLsr s).rp = s.rp
    ∧ (readLsr s).rtsShadow = s.rtsShadow ∧ (readLsr s).timerStarted = s.timerStarted
    ∧ (readLsr s).dlStart = s.dlStart ∧ (readLsr s).dlEnd = s.dlEnd ∧ (readLsr s).fcEn = s.fcEn
    ∧ (readLsr s).step = s.step ∧ (readLsr s).cOp = s.cOp ∧ (readLsr s).cB0 = s.cB0 ∧ (readLsr s).cB1 = s.cB1
    ∧ (readLsr s).cT = s.cT ∧ (readLsr s).cArg = s.cArg ∧ (readLsr s).tLsr = s.nextLsr ∧ (readLsr s).tData = s.tData
    ∧ (readLsr s).tMcr = s.tMcr ∧ (readLsr s).tMsr = s.tMsr ∧ (readLsr s).tCur = s.tCur ∧ (readLsr s).tRes = s.tRes
    ∧ (readLsr s).tTicks = s.tTicks ∧ (readLsr s).argLo = s.argLo ∧ (readLsr s).argHi = s.argHi
    ∧ (readLsr s).rsp = s.rsp ∧ (readLsr s).rspV0 = s.rspV0 ∧ (readLsr s).rspV1 = s.rspV1 ∧ (readLsr s).busy = s.busy
    ∧ (readLsr s).cmdLost = s.cmdLost ∧ (readLsr s).env.moves = s.env.moves ∧ (readLsr s).env.lsrIn = s.env.lsrIn.tail
    ∧ (readLsr s).env.dataIn = s.env.dataIn ∧ (readLsr s).env.msrIn = s.env.msrIn
    ∧ (readLsr s).env.cntIn = s.env.cntIn ∧ (readLsr s).env.mcr = s.env.mcr ∧ (readLsr s).env.drawn = s.env.drawn + 1
    ∧ (readLsr s).env.resets = s.env.resets ∧ (readLsr s).env.trace = s.traceWith .read .lsr (s.nextLsr.setWidth 32)
    ∧ (readLsr s).env.hostReads = s.env.hostReads := by
  and_intros <;> rfl

@[simp] theorem readData_fields (s : State) :
    (readData s).params = s.params ∧ (readData s).buf = s.buf ∧ (readData s).wp = s.wp ∧ (readData s).rp = s.rp
    ∧ (readData s).rtsShadow = s.rtsShadow ∧ (readData s).timerStarted = s.timerStarted
    ∧ (readData s).dlStart = s.dlStart ∧ (readData s).dlEnd = s.dlEnd ∧ (readData s).fcEn = s.fcEn
    ∧ (readData s).step = s.step ∧ (readData s).cOp = s.cOp ∧ (readData s).cB0 = s.cB0 ∧ (readData s).cB1 = s.cB1
    ∧ (readData s).cT = s.cT ∧ (readData s).cArg = s.cArg ∧ (readData s).tLsr = s.tLsr
    ∧ (readData s).tData = s.nextData ∧ (readData s).tMcr = s.tMcr ∧ (readData s).tMsr = s.tMsr
    ∧ (readData s).tCur = s.tCur ∧ (readData s).tRes = s.tRes ∧ (readData s).tTicks = s.tTicks
    ∧ (readData s).argLo = s.argLo ∧ (readData s).argHi = s.argHi ∧ (readData s).rsp = s.rsp
    ∧ (readData s).rspV0 = s.rspV0 ∧ (readData s).rspV1 = s.rspV1 ∧ (readData s).busy = s.busy
    ∧ (readData s).cmdLost = s.cmdLost ∧ (readData s).env.moves = s.env.moves ∧ (readData s).env.lsrIn = s.env.lsrIn
    ∧ (readData s).env.dataIn = s.env.dataIn.tail ∧ (readData s).env.msrIn = s.env.msrIn
    ∧ (readData s).env.cntIn = s.env.cntIn ∧ (readData s).env.mcr = s.env.mcr
    ∧ (readData s).env.drawn = s.env.drawn + 1 ∧ (readData s).env.resets = s.env.resets
    ∧ (readData s).env.trace = s.traceWith .read .data (s.nextData.setWidth 32)
    ∧ (readData s).env.hostReads = s.env.hostReads := by
  and_intros <;> rfl

@[simp] theorem readMsr_fields (s : State) :
    (readMsr s).params = s.params ∧ (readMsr s).buf = s.buf ∧ (readMsr s).wp = s.wp ∧ (readMsr s).rp = s.rp
    ∧ (readMsr s).rtsShadow = s.rtsShadow ∧ (readMsr s).timerStarted = s.timerStarted
    ∧ (readMsr s).dlStart = s.dlStart ∧ (readMsr s).dlEnd = s.dlEnd ∧ (readMsr s).fcEn = s.fcEn
    ∧ (readMsr s).step = s.step ∧ (readMsr s).cOp = s.cOp ∧ (readMsr s).cB0 = s.cB0 ∧ (readMsr s).cB1 = s.cB1
    ∧ (readMsr s).cT = s.cT ∧ (readMsr s).cArg = s.cArg ∧ (readMsr s).tLsr = s.tLsr ∧ (readMsr s).tData = s.tData
    ∧ (readMsr s).tMcr = s.tMcr ∧ (readMsr s).tMsr = s.nextMsr ∧ (readMsr s).tCur = s.tCur ∧ (readMsr s).tRes = s.tRes
    ∧ (readMsr s).tTicks = s.tTicks ∧ (readMsr s).argLo = s.argLo ∧ (readMsr s).argHi = s.argHi
    ∧ (readMsr s).rsp = s.rsp ∧ (readMsr s).rspV0 = s.rspV0 ∧ (readMsr s).rspV1 = s.rspV1 ∧ (readMsr s).busy = s.busy
    ∧ (readMsr s).cmdLost = s.cmdLost ∧ (readMsr s).env.moves = s.env.moves ∧ (readMsr s).env.lsrIn = s.env.lsrIn
    ∧ (readMsr s).env.dataIn = s.env.dataIn ∧ (readMsr s).env.msrIn = s.env.msrIn.tail
    ∧ (readMsr s).env.cntIn = s.env.cntIn ∧ (readMsr s).env.mcr = s.env.mcr ∧ (readMsr s).env.drawn = s.env.drawn + 1
    ∧ (readMsr s).env.resets = s.env.resets ∧ (readMsr s).env.trace = s.traceWith .read .msr (s.nextMsr.setWidth 32)
    ∧ (readMsr s).env.hostReads = s.env.hostReads := by
  and_intros <;> rfl

@[simp] theorem readCnt_fields (s : State) :
    (readCnt s).params = s.params ∧ (readCnt s).buf = s.buf ∧ (readCnt s).wp = s.wp ∧ (readCnt s).rp = s.rp
    ∧ (readCnt s).rtsShadow = s.rtsShadow ∧ (readCnt s).timerStarted = s.timerStarted
    ∧ (readCnt s).dlStart = s.dlStart ∧ (readCnt s).dlEnd = s.dlEnd ∧ (readCnt s).fcEn = s.fcEn
    ∧ (readCnt s).step = s.step ∧ (readCnt s).cOp = s.cOp ∧ (readCnt s).cB0 = s.cB0 ∧ (readCnt s).cB1 = s.cB1
    ∧ (readCnt s).cT = s.cT ∧ (readCnt s).cArg = s.cArg ∧ (readCnt s).tLsr = s.tLsr ∧ (readCnt s).tData = s.tData
    ∧ (readCnt s).tMcr = s.tMcr ∧ (readCnt s).tMsr = s.tMsr ∧ (readCnt s).tCur = s.nextCnt ∧ (readCnt s).tRes = s.tRes
    ∧ (readCnt s).tTicks = s.tTicks ∧ (readCnt s).argLo = s.argLo ∧ (readCnt s).argHi = s.argHi
    ∧ (readCnt s).rsp = s.rsp ∧ (readCnt s).rspV0 = s.rspV0 ∧ (readCnt s).rspV1 = s.rspV1 ∧ (readCnt s).busy = s.busy
    ∧ (readCnt s).cmdLost = s.cmdLost ∧ (readCnt s).env.moves = s.env.moves ∧ (readCnt s).env.lsrIn = s.env.lsrIn
    ∧ (readCnt s).env.dataIn = s.env.dataIn ∧ (readCnt s).env.msrIn = s.env.msrIn
    ∧ (readCnt s).env.cntIn = s.env.cntIn.tail ∧ (readCnt s).env.mcr = s.env.mcr
    ∧ (readCnt s).env.drawn = s.env.drawn + 1 ∧ (readCnt s).env.resets = s.env.resets
    ∧ (readCnt s).env.trace = s.traceWith .read .cntVal s.nextCnt ∧ (readCnt s).env.hostReads = s.env.hostReads := by
  and_intros <;> rfl

@[simp] theorem readMcr_fields (s : State) :
    (readMcr s).params = s.params ∧ (readMcr s).buf = s.buf ∧ (readMcr s).wp = s.wp ∧ (readMcr s).rp = s.rp
    ∧ (readMcr s).rtsShadow = s.rtsShadow ∧ (readMcr s).timerStarted = s.timerStarted
    ∧ (readMcr s).dlStart = s.dlStart ∧ (readMcr s).dlEnd = s.dlEnd ∧ (readMcr s).fcEn = s.fcEn
    ∧ (readMcr s).step = s.step ∧ (readMcr s).cOp = s.cOp ∧ (readMcr s).cB0 = s.cB0 ∧ (readMcr s).cB1 = s.cB1
    ∧ (readMcr s).cT = s.cT ∧ (readMcr s).cArg = s.cArg ∧ (readMcr s).tLsr = s.tLsr ∧ (readMcr s).tData = s.tData
    ∧ (readMcr s).tMcr = s.env.mcr ∧ (readMcr s).tMsr = s.tMsr ∧ (readMcr s).tCur = s.tCur ∧ (readMcr s).tRes = s.tRes
    ∧ (readMcr s).tTicks = s.tTicks ∧ (readMcr s).argLo = s.argLo ∧ (readMcr s).argHi = s.argHi
    ∧ (readMcr s).rsp = s.rsp ∧ (readMcr s).rspV0 = s.rspV0 ∧ (readMcr s).rspV1 = s.rspV1 ∧ (readMcr s).busy = s.busy
    ∧ (readMcr s).cmdLost = s.cmdLost ∧ (readMcr s).env.moves = s.env.moves ∧ (readMcr s).env.lsrIn = s.env.lsrIn
    ∧ (readMcr s).env.dataIn = s.env.dataIn ∧ (readMcr s).env.msrIn = s.env.msrIn
    ∧ (readMcr s).env.cntIn = s.env.cntIn ∧ (readMcr s).env.mcr = s.env.mcr ∧ (readMcr s).env.drawn = s.env.drawn
    ∧ (readMcr s).env.resets = s.env.resets ∧ (readMcr s).env.trace = s.traceWith .read .mcr (s.env.mcr.setWidth 32)
    ∧ (readMcr s).env.hostReads = s.env.hostReads := by
  and_intros <;> rfl

@[simp] theorem writeData_fields (b : Byte) (s : State) :
    (writeData b s).params = s.params ∧ (writeData b s).buf = s.buf ∧ (writeData b s).wp = s.wp
    ∧ (writeData b s).rp = s.rp ∧ (writeData b s).rtsShadow = s.rtsShadow
    ∧ (writeData b s).timerStarted = s.timerStarted ∧ (writeData b s).dlStart = s.dlStart
    ∧ (writeData b s).dlEnd = s.dlEnd ∧ (writeData b s).fcEn = s.fcEn ∧ (writeData b s).step = s.step
    ∧ (writeData b s).cOp = s.cOp ∧ (writeData b s).cB0 = s.cB0 ∧ (writeData b s).cB1 = s.cB1
    ∧ (writeData b s).cT = s.cT ∧ (writeData b s).cArg = s.cArg ∧ (writeData b s).tLsr = s.tLsr
    ∧ (writeData b s).tData = s.tData ∧ (writeData b s).tMcr = s.tMcr ∧ (writeData b s).tMsr = s.tMsr
    ∧ (writeData b s).tCur = s.tCur ∧ (writeData b s).tRes = s.tRes ∧ (writeData b s).tTicks = s.tTicks
    ∧ (writeData b s).argLo = s.argLo ∧ (writeData b s).argHi = s.argHi ∧ (writeData b s).rsp = s.rsp
    ∧ (writeData b s).rspV0 = s.rspV0 ∧ (writeData b s).rspV1 = s.rspV1 ∧ (writeData b s).busy = s.busy
    ∧ (writeData b s).cmdLost = s.cmdLost ∧ (writeData b s).env.moves = s.env.moves
    ∧ (writeData b s).env.lsrIn = s.env.lsrIn ∧ (writeData b s).env.dataIn = s.env.dataIn
    ∧ (writeData b s).env.msrIn = s.env.msrIn ∧ (writeData b s).env.cntIn = s.env.cntIn
    ∧ (writeData b s).env.mcr = s.env.mcr ∧ (writeData b s).env.drawn = s.env.drawn
    ∧ (writeData b s).env.resets = s.env.resets ∧ (writeData b s).env.trace = s.traceWith .write .data (b.setWidth 32)
    ∧ (writeData b s).env.hostReads = s.env.hostReads := by
  and_intros <;> rfl

@[simp] theorem writeMcr_fields (v : Byte) (s : State) :
    (writeMcr v s).params = s.params ∧ (writeMcr v s).buf = s.buf ∧ (writeMcr v s).wp = s.wp
    ∧ (writeMcr v s).rp = s.rp ∧ (writeMcr v s).rtsShadow = s.rtsShadow ∧ (writeMcr v s).timerStarted = s.timerStarted
    ∧ (writeMcr v s).dlStart = s.dlStart ∧ (writeMcr v s).dlEnd = s.dlEnd ∧ (writeMcr v s).fcEn = s.fcEn
    ∧ (writeMcr v s).step = s.step ∧ (writeMcr v s).cOp = s.cOp ∧ (writeMcr v s).cB0 = s.cB0
    ∧ (writeMcr v s).cB1 = s.cB1 ∧ (writeMcr v s).cT = s.cT ∧ (writeMcr v s).cArg = s.cArg
    ∧ (writeMcr v s).tLsr = s.tLsr ∧ (writeMcr v s).tData = s.tData ∧ (writeMcr v s).tMcr = s.tMcr
    ∧ (writeMcr v s).tMsr = s.tMsr ∧ (writeMcr v s).tCur = s.tCur ∧ (writeMcr v s).tRes = s.tRes
    ∧ (writeMcr v s).tTicks = s.tTicks ∧ (writeMcr v s).argLo = s.argLo ∧ (writeMcr v s).argHi = s.argHi
    ∧ (writeMcr v s).rsp = s.rsp ∧ (writeMcr v s).rspV0 = s.rspV0 ∧ (writeMcr v s).rspV1 = s.rspV1
    ∧ (writeMcr v s).busy = s.busy ∧ (writeMcr v s).cmdLost = s.cmdLost ∧ (writeMcr v s).env.moves = s.env.moves
    ∧ (writeMcr v s).env.lsrIn = s.env.lsrIn ∧ (writeMcr v s).env.dataIn = s.env.dataIn
    ∧ (writeMcr v s).env.msrIn = s.env.msrIn ∧ (writeMcr v s).env.cntIn = s.env.cntIn ∧ (writeMcr v s).env.mcr = v
    ∧ (writeMcr v s).env.drawn = s.env.drawn ∧ (writeMcr v s).env.resets = s.env.resets
    ∧ (writeMcr v s).env.trace = s.traceWith .write .mcr (v.setWidth 32)
    ∧ (writeMcr v s).env.hostReads = s.env.hostReads := by
  and_intros <;> rfl

@[simp] theorem writeCntCtrl_fields (v : Word) (s : State) :
    (writeCntCtrl v s).params = s.params ∧ (writeCntCtrl v s).buf = s.buf ∧ (writeCntCtrl v s).wp = s.wp
    ∧ (writeCntCtrl v s).rp = s.rp ∧ (writeCntCtrl v s).rtsShadow = s.rtsShadow
    ∧ (writeCntCtrl v s).timerStarted = s.timerStarted ∧ (writeCntCtrl v s).dlStart = s.dlStart
    ∧ (writeCntCtrl v s).dlEnd = s.dlEnd ∧ (writeCntCtrl v s).fcEn = s.fcEn ∧ (writeCntCtrl v s).step = s.step
    ∧ (writeCntCtrl v s).cOp = s.cOp ∧ (writeCntCtrl v s).cB0 = s.cB0 ∧ (writeCntCtrl v s).cB1 = s.cB1
    ∧ (writeCntCtrl v s).cT = s.cT ∧ (writeCntCtrl v s).cArg = s.cArg ∧ (writeCntCtrl v s).tLsr = s.tLsr
    ∧ (writeCntCtrl v s).tData = s.tData ∧ (writeCntCtrl v s).tMcr = s.tMcr ∧ (writeCntCtrl v s).tMsr = s.tMsr
    ∧ (writeCntCtrl v s).tCur = s.tCur ∧ (writeCntCtrl v s).tRes = s.tRes ∧ (writeCntCtrl v s).tTicks = s.tTicks
    ∧ (writeCntCtrl v s).argLo = s.argLo ∧ (writeCntCtrl v s).argHi = s.argHi ∧ (writeCntCtrl v s).rsp = s.rsp
    ∧ (writeCntCtrl v s).rspV0 = s.rspV0 ∧ (writeCntCtrl v s).rspV1 = s.rspV1 ∧ (writeCntCtrl v s).busy = s.busy
    ∧ (writeCntCtrl v s).cmdLost = s.cmdLost ∧ (writeCntCtrl v s).env.moves = s.env.moves
    ∧ (writeCntCtrl v s).env.lsrIn = s.env.lsrIn ∧ (writeCntCtrl v s).env.dataIn = s.env.dataIn
    ∧ (writeCntCtrl v s).env.msrIn = s.env.msrIn ∧ (writeCntCtrl v s).env.cntIn = s.env.cntIn
    ∧ (writeCntCtrl v s).env.mcr = s.env.mcr ∧ (writeCntCtrl v s).env.drawn = s.env.drawn
    ∧ (writeCntCtrl v s).env.resets = s.env.resets ∧ (writeCntCtrl v s).env.trace = s.traceWith .write .cntCtrl v
    ∧ (writeCntCtrl v s).env.hostReads = s.env.hostReads := by
  and_intros <;> rfl

@[simp] theorem writeRts_fields (v : Bool) (s : State) :
    (writeRts v s).params = s.params ∧ (writeRts v s).buf = s.buf ∧ (writeRts v s).wp = s.wp
    ∧ (writeRts v s).rp = s.rp ∧ (writeRts v s).rtsShadow = v ∧ (writeRts v s).timerStarted = s.timerStarted
    ∧ (writeRts v s).dlStart = s.dlStart ∧ (writeRts v s).dlEnd = s.dlEnd ∧ (writeRts v s).fcEn = s.fcEn
    ∧ (writeRts v s).step = s.step ∧ (writeRts v s).cOp = s.cOp ∧ (writeRts v s).cB0 = s.cB0
    ∧ (writeRts v s).cB1 = s.cB1 ∧ (writeRts v s).cT = s.cT ∧ (writeRts v s).cArg = s.cArg
    ∧ (writeRts v s).tLsr = s.tLsr ∧ (writeRts v s).tData = s.tData ∧ (writeRts v s).tMcr = s.tMcr
    ∧ (writeRts v s).tMsr = s.tMsr ∧ (writeRts v s).tCur = s.tCur ∧ (writeRts v s).tRes = s.tRes
    ∧ (writeRts v s).tTicks = s.tTicks ∧ (writeRts v s).argLo = s.argLo ∧ (writeRts v s).argHi = s.argHi
    ∧ (writeRts v s).rsp = s.rsp ∧ (writeRts v s).rspV0 = s.rspV0 ∧ (writeRts v s).rspV1 = s.rspV1
    ∧ (writeRts v s).busy = s.busy ∧ (writeRts v s).cmdLost = s.cmdLost ∧ (writeRts v s).env.moves = s.env.moves
    ∧ (writeRts v s).env.lsrIn = s.env.lsrIn ∧ (writeRts v s).env.dataIn = s.env.dataIn
    ∧ (writeRts v s).env.msrIn = s.env.msrIn ∧ (writeRts v s).env.cntIn = s.env.cntIn
    ∧ (writeRts v s).env.mcr = rtsByte v s.tMcr ∧ (writeRts v s).env.drawn = s.env.drawn
    ∧ (writeRts v s).env.resets = s.env.resets
    ∧ (writeRts v s).env.trace = s.traceWith .write .mcr ((rtsByte v s.tMcr).setWidth 32)
    ∧ (writeRts v s).env.hostReads = s.env.hostReads := by
  and_intros <;> rfl

@[simp] theorem formDeadline_fields (k : Nat) (s : State) :
    (formDeadline k s).params = s.params ∧ (formDeadline k s).buf = s.buf ∧ (formDeadline k s).wp = s.wp
    ∧ (formDeadline k s).rp = s.rp ∧ (formDeadline k s).rtsShadow = s.rtsShadow
    ∧ (formDeadline k s).timerStarted = s.timerStarted ∧ (formDeadline k s).dlStart = s.tCur
    ∧ (formDeadline k s).dlEnd = deadlineEnd s.tCur k ∧ (formDeadline k s).fcEn = s.fcEn
    ∧ (formDeadline k s).step = s.step ∧ (formDeadline k s).cOp = s.cOp ∧ (formDeadline k s).cB0 = s.cB0
    ∧ (formDeadline k s).cB1 = s.cB1 ∧ (formDeadline k s).cT = s.cT ∧ (formDeadline k s).cArg = s.cArg
    ∧ (formDeadline k s).tLsr = s.tLsr ∧ (formDeadline k s).tData = s.tData ∧ (formDeadline k s).tMcr = s.tMcr
    ∧ (formDeadline k s).tMsr = s.tMsr ∧ (formDeadline k s).tCur = s.tCur ∧ (formDeadline k s).tRes = s.tRes
    ∧ (formDeadline k s).tTicks = s.tTicks ∧ (formDeadline k s).argLo = s.argLo ∧ (formDeadline k s).argHi = s.argHi
    ∧ (formDeadline k s).rsp = s.rsp ∧ (formDeadline k s).rspV0 = s.rspV0 ∧ (formDeadline k s).rspV1 = s.rspV1
    ∧ (formDeadline k s).busy = s.busy ∧ (formDeadline k s).cmdLost = s.cmdLost ∧ (formDeadline k s).env = s.env := by
  and_intros <;> rfl

@[simp] theorem setTicks_fields (k : Nat) (s : State) :
    (setTicks k s).params = s.params ∧ (setTicks k s).buf = s.buf ∧ (setTicks k s).wp = s.wp
    ∧ (setTicks k s).rp = s.rp ∧ (setTicks k s).rtsShadow = s.rtsShadow ∧ (setTicks k s).timerStarted = s.timerStarted
    ∧ (setTicks k s).dlStart = s.dlStart ∧ (setTicks k s).dlEnd = s.dlEnd ∧ (setTicks k s).fcEn = s.fcEn
    ∧ (setTicks k s).step = s.step ∧ (setTicks k s).cOp = s.cOp ∧ (setTicks k s).cB0 = s.cB0
    ∧ (setTicks k s).cB1 = s.cB1 ∧ (setTicks k s).cT = s.cT ∧ (setTicks k s).cArg = s.cArg
    ∧ (setTicks k s).tLsr = s.tLsr ∧ (setTicks k s).tData = s.tData ∧ (setTicks k s).tMcr = s.tMcr
    ∧ (setTicks k s).tMsr = s.tMsr ∧ (setTicks k s).tCur = s.tCur ∧ (setTicks k s).tRes = s.tRes
    ∧ (setTicks k s).tTicks = k ∧ (setTicks k s).argLo = s.argLo ∧ (setTicks k s).argHi = s.argHi
    ∧ (setTicks k s).rsp = s.rsp ∧ (setTicks k s).rspV0 = s.rspV0 ∧ (setTicks k s).rspV1 = s.rspV1
    ∧ (setTicks k s).busy = s.busy ∧ (setTicks k s).cmdLost = s.cmdLost ∧ (setTicks k s).env = s.env := by
  and_intros <;> rfl

@[simp] theorem latchCommand_fields (w : Word) (s : State) :
    (latchCommand w s).params = s.params ∧ (latchCommand w s).buf = s.buf ∧ (latchCommand w s).wp = s.wp
    ∧ (latchCommand w s).rp = s.rp ∧ (latchCommand w s).rtsShadow = s.rtsShadow
    ∧ (latchCommand w s).timerStarted = s.timerStarted ∧ (latchCommand w s).dlStart = s.dlStart
    ∧ (latchCommand w s).dlEnd = s.dlEnd ∧ (latchCommand w s).fcEn = s.fcEn ∧ (latchCommand w s).step = s.step
    ∧ (latchCommand w s).cOp = Word.op w ∧ (latchCommand w s).cB0 = Word.b0 w ∧ (latchCommand w s).cB1 = Word.b1 w
    ∧ (latchCommand w s).cT = Word.t w ∧ (latchCommand w s).cArg = packArg s.argHi s.argLo
    ∧ (latchCommand w s).tLsr = s.tLsr ∧ (latchCommand w s).tData = s.tData ∧ (latchCommand w s).tMcr = s.tMcr
    ∧ (latchCommand w s).tMsr = s.tMsr ∧ (latchCommand w s).tCur = s.tCur ∧ (latchCommand w s).tRes = s.tRes
    ∧ (latchCommand w s).tTicks = s.tTicks ∧ (latchCommand w s).argLo = s.argLo ∧ (latchCommand w s).argHi = s.argHi
    ∧ (latchCommand w s).rsp = s.rsp ∧ (latchCommand w s).rspV0 = s.rspV0 ∧ (latchCommand w s).rspV1 = s.rspV1
    ∧ (latchCommand w s).busy = s.busy ∧ (latchCommand w s).cmdLost = false ∧ (latchCommand w s).env = s.env := by
  and_intros <;> rfl

@[simp] theorem afterMove_fields (s : State) :
    s.afterMove.params = s.params ∧ s.afterMove.buf = s.buf ∧ s.afterMove.wp = s.wp ∧ s.afterMove.rp = s.rp
    ∧ s.afterMove.rtsShadow = s.rtsShadow ∧ s.afterMove.timerStarted = s.timerStarted
    ∧ s.afterMove.dlStart = s.dlStart ∧ s.afterMove.dlEnd = s.dlEnd ∧ s.afterMove.fcEn = s.fcEn
    ∧ s.afterMove.step = s.step ∧ s.afterMove.cOp = s.cOp ∧ s.afterMove.cB0 = s.cB0 ∧ s.afterMove.cB1 = s.cB1
    ∧ s.afterMove.cT = s.cT ∧ s.afterMove.cArg = s.cArg ∧ s.afterMove.tLsr = s.tLsr ∧ s.afterMove.tData = s.tData
    ∧ s.afterMove.tMcr = s.tMcr ∧ s.afterMove.tMsr = s.tMsr ∧ s.afterMove.tCur = s.tCur ∧ s.afterMove.tRes = s.tRes
    ∧ s.afterMove.tTicks = s.tTicks ∧ s.afterMove.argLo = s.argLo ∧ s.afterMove.argHi = s.argHi
    ∧ s.afterMove.rsp = s.rsp ∧ s.afterMove.rspV0 = s.rspV0 ∧ s.afterMove.rspV1 = s.rspV1 ∧ s.afterMove.busy = s.busy
    ∧ s.afterMove.cmdLost = s.cmdLost ∧ s.afterMove.env.moves = s.env.moves.tail ∧ s.afterMove.env.lsrIn = s.env.lsrIn
    ∧ s.afterMove.env.dataIn = s.env.dataIn ∧ s.afterMove.env.msrIn = s.env.msrIn
    ∧ s.afterMove.env.cntIn = s.env.cntIn ∧ s.afterMove.env.mcr = s.env.mcr ∧ s.afterMove.env.drawn = s.env.drawn
    ∧ s.afterMove.env.resets = s.env.resets ∧ s.afterMove.env.trace = s.env.trace
    ∧ s.afterMove.env.hostReads = s.env.hostReads := by
  and_intros <;> rfl

@[simp] theorem hostReadMove_fields (r : HostReg) (s : State) :
    (hostReadMove r s).params = s.params ∧ (hostReadMove r s).buf = s.buf ∧ (hostReadMove r s).wp = s.wp
    ∧ (hostReadMove r s).rp = s.rp ∧ (hostReadMove r s).rtsShadow = s.rtsShadow
    ∧ (hostReadMove r s).timerStarted = s.timerStarted ∧ (hostReadMove r s).dlStart = s.dlStart
    ∧ (hostReadMove r s).dlEnd = s.dlEnd ∧ (hostReadMove r s).fcEn = s.fcEn ∧ (hostReadMove r s).step = s.step
    ∧ (hostReadMove r s).cOp = s.cOp ∧ (hostReadMove r s).cB0 = s.cB0 ∧ (hostReadMove r s).cB1 = s.cB1
    ∧ (hostReadMove r s).cT = s.cT ∧ (hostReadMove r s).cArg = s.cArg ∧ (hostReadMove r s).tLsr = s.tLsr
    ∧ (hostReadMove r s).tData = s.tData ∧ (hostReadMove r s).tMcr = s.tMcr ∧ (hostReadMove r s).tMsr = s.tMsr
    ∧ (hostReadMove r s).tCur = s.tCur ∧ (hostReadMove r s).tRes = s.tRes ∧ (hostReadMove r s).tTicks = s.tTicks
    ∧ (hostReadMove r s).argLo = s.argLo ∧ (hostReadMove r s).argHi = s.argHi ∧ (hostReadMove r s).rsp = s.rsp
    ∧ (hostReadMove r s).rspV0 = s.rspV0 ∧ (hostReadMove r s).rspV1 = s.rspV1 ∧ (hostReadMove r s).busy = s.busy
    ∧ (hostReadMove r s).cmdLost = s.cmdLost ∧ (hostReadMove r s).env.moves = s.env.moves
    ∧ (hostReadMove r s).env.lsrIn = s.env.lsrIn ∧ (hostReadMove r s).env.dataIn = s.env.dataIn
    ∧ (hostReadMove r s).env.msrIn = s.env.msrIn ∧ (hostReadMove r s).env.cntIn = s.env.cntIn
    ∧ (hostReadMove r s).env.mcr = s.env.mcr ∧ (hostReadMove r s).env.drawn = s.env.drawn
    ∧ (hostReadMove r s).env.resets = s.env.resets ∧ (hostReadMove r s).env.trace = s.env.trace
    ∧ (hostReadMove r s).env.hostReads = s.env.hostReads ++ [(r, s.hostRead r)] := by
  and_intros <;> rfl

end Sys2Proof.Machine
end

