-- ==== Sys2Proof/Laws/Ops.lean ====
section
/-! SUPPORT. One law for each shared operation: the ring RAM's reads and writes, the cursor step, push, pop, the counter
start, the record and response formats. Later proofs cite these and do not unfold the operations. -/

namespace Sys2Proof.Machine

/-! ## The ring RAM -/

theorem Memory.read_write_same (m : Memory) (i : Nat) (v : Slot) : (m.write i v).read i = some v := by
  induction m with
  | nil => simp [Memory.write, Memory.read]
  | cons x m ih =>
    obtain ⟨a, w⟩ := x
    unfold Memory.write
    split
    · simp [Memory.read]
    · split
      · simp [Memory.read]
      · rename_i h; simp [Memory.read, h, ih]

theorem Memory.read_write_other (m : Memory) {i j : Nat} (v : Slot) (h : j ≠ i) :
    (m.write i v).read j = m.read j := by
  induction m with
  | nil => simp [Memory.write, Memory.read, Ne.symm h]
  | cons x m ih =>
    obtain ⟨a, w⟩ := x
    unfold Memory.write
    split
    · simp [Memory.read, Ne.symm h]
    · split
      · rename_i ha; subst ha; simp [Memory.read, Ne.symm h]
      · simp [Memory.read, ih]

/-- A write lists its own slot and otherwise only what was listed. -/
theorem Memory.mem_write {m : Memory} {i : Nat} {v : Slot} {x : Nat × Slot} (h : x ∈ m.write i v) :
    x = (i, v) ∨ x ∈ m := by
  induction m with
  | nil => exact .inl (by simpa [Memory.write] using h)
  | cons y m ih =>
    obtain ⟨a, w⟩ := y
    unfold Memory.write at h
    split at h
    · simpa using h
    · split at h
      · rcases List.mem_cons.1 h with h | h
        · exact .inl h
        · exact .inr (List.mem_cons_of_mem _ h)
      · rcases List.mem_cons.1 h with h | h
        · exact .inr (by simp [h])
        · rcases ih h with h | h
          · exact .inl h
          · exact .inr (List.mem_cons_of_mem _ h)

/-- Every write keeps the canonical form. -/
theorem Memory.wf_write {m : Memory} (i : Nat) (v : Slot) (h : m.wf) : (m.write i v).wf := by
  induction m with
  | nil => simp [Memory.write, Memory.wf]
  | cons y m ih =>
    obtain ⟨a, w⟩ := y
    obtain ⟨h1, h2⟩ := List.pairwise_cons.1 h
    unfold Memory.write
    split
    · rename_i hi
      refine List.pairwise_cons.2 ⟨fun x hx => ?_, h⟩
      rcases List.mem_cons.1 hx with rfl | hx
      · exact hi
      · exact Nat.lt_trans hi (h1 x hx)
    · split
      · rename_i ha; subst ha
        exact List.pairwise_cons.2 ⟨h1, h2⟩
      · refine List.pairwise_cons.2 ⟨fun x hx => ?_, ih h2⟩
        rcases Memory.mem_write hx with rfl | hx
        · show a < i; omega
        · exact h1 x hx

/-- The reset memory has the canonical form. -/
theorem reset_memory_wf : State.reset.buf.wf := List.Pairwise.nil

/-! ## Cursors, push, pop -/

/-- A cursor's step is exact: the 16 bits hold every slot of a ring of at most 65536 (R21). -/
theorem cursorNext_toNat {n : Nat} (hn : n ≤ 65536) (c : Cursor) (hc : c.toNat < n) :
    (cursorNext n c).toNat = (c.toNat + 1) % n := by
  have : (c.toNat + 1) % n < n := Nat.mod_lt _ (by omega)
  rw [cursorNext, BitVec.toNat_ofNat, Nat.mod_eq_of_lt (by omega)]

theorem cursorNext_lt {n : Nat} (hn : n ≤ 65536) (c : Cursor) (hc : c.toNat < n) : (cursorNext n c).toNat < n := by
  rw [cursorNext_toNat hn c hc]; exact Nat.mod_lt _ (by omega)

@[simp] theorem pushRecord_frame (st d : Byte) (s : State) :
    (pushRecord st d s).params = s.params ∧ (pushRecord st d s).rtsShadow = s.rtsShadow
    ∧ (pushRecord st d s).timerStarted = s.timerStarted ∧ (pushRecord st d s).dlStart = s.dlStart
    ∧ (pushRecord st d s).dlEnd = s.dlEnd ∧ (pushRecord st d s).fcEn = s.fcEn ∧ (pushRecord st d s).step = s.step
    ∧ (pushRecord st d s).cOp = s.cOp ∧ (pushRecord st d s).cB0 = s.cB0 ∧ (pushRecord st d s).cB1 = s.cB1
    ∧ (pushRecord st d s).cT = s.cT ∧ (pushRecord st d s).cArg = s.cArg ∧ (pushRecord st d s).tLsr = s.tLsr
    ∧ (pushRecord st d s).tData = s.tData ∧ (pushRecord st d s).tMcr = s.tMcr ∧ (pushRecord st d s).tMsr = s.tMsr
    ∧ (pushRecord st d s).tCur = s.tCur ∧ (pushRecord st d s).tRes = s.tRes ∧ (pushRecord st d s).tTicks = s.tTicks
    ∧ (pushRecord st d s).argLo = s.argLo ∧ (pushRecord st d s).argHi = s.argHi ∧ (pushRecord st d s).rsp = s.rsp
    ∧ (pushRecord st d s).rspV0 = s.rspV0 ∧ (pushRecord st d s).rspV1 = s.rspV1 ∧ (pushRecord st d s).busy = s.busy
    ∧ (pushRecord st d s).cmdLost = s.cmdLost ∧ (pushRecord st d s).env = s.env
    ∧ (pushRecord st d s).buf = s.buf.write s.wp.toNat (packRecord st d) := by
  unfold pushRecord; cases s.params.overwriteMode <;> (and_intros <;> rfl)

@[simp] theorem popRecord_frame (s : State) :
    (popRecord s).params = s.params ∧ (popRecord s).buf = s.buf ∧ (popRecord s).wp = s.wp
    ∧ (popRecord s).rtsShadow = s.rtsShadow ∧ (popRecord s).timerStarted = s.timerStarted
    ∧ (popRecord s).dlStart = s.dlStart ∧ (popRecord s).dlEnd = s.dlEnd ∧ (popRecord s).fcEn = s.fcEn
    ∧ (popRecord s).step = s.step ∧ (popRecord s).cOp = s.cOp ∧ (popRecord s).cB0 = s.cB0 ∧ (popRecord s).cB1 = s.cB1
    ∧ (popRecord s).cT = s.cT ∧ (popRecord s).cArg = s.cArg ∧ (popRecord s).tLsr = s.tLsr
    ∧ (popRecord s).tData = s.tData ∧ (popRecord s).tMcr = s.tMcr ∧ (popRecord s).tMsr = s.tMsr
    ∧ (popRecord s).tCur = s.tCur ∧ (popRecord s).tRes = s.tRes ∧ (popRecord s).tTicks = s.tTicks
    ∧ (popRecord s).argLo = s.argLo ∧ (popRecord s).argHi = s.argHi ∧ (popRecord s).rsp = s.rsp
    ∧ (popRecord s).rspV0 = s.rspV0 ∧ (popRecord s).rspV1 = s.rspV1 ∧ (popRecord s).busy = s.busy
    ∧ (popRecord s).cmdLost = s.cmdLost ∧ (popRecord s).env = s.env := by
  unfold popRecord; split <;> (and_intros <;> rfl)

@[simp] theorem popToTemp_frame (s : State) :
    (popToTemp s).params = s.params ∧ (popToTemp s).buf = s.buf ∧ (popToTemp s).wp = s.wp
    ∧ (popToTemp s).rtsShadow = s.rtsShadow ∧ (popToTemp s).timerStarted = s.timerStarted
    ∧ (popToTemp s).dlStart = s.dlStart ∧ (popToTemp s).dlEnd = s.dlEnd ∧ (popToTemp s).fcEn = s.fcEn
    ∧ (popToTemp s).step = s.step ∧ (popToTemp s).cOp = s.cOp ∧ (popToTemp s).cB0 = s.cB0 ∧ (popToTemp s).cB1 = s.cB1
    ∧ (popToTemp s).cT = s.cT ∧ (popToTemp s).cArg = s.cArg ∧ (popToTemp s).tLsr = s.tLsr
    ∧ (popToTemp s).tData = s.tData ∧ (popToTemp s).tMcr = s.tMcr ∧ (popToTemp s).tMsr = s.tMsr
    ∧ (popToTemp s).tCur = s.tCur ∧ (popToTemp s).tTicks = s.tTicks ∧ (popToTemp s).argLo = s.argLo
    ∧ (popToTemp s).argHi = s.argHi ∧ (popToTemp s).rsp = s.rsp ∧ (popToTemp s).rspV0 = s.rspV0
    ∧ (popToTemp s).rspV1 = s.rspV1 ∧ (popToTemp s).busy = s.busy ∧ (popToTemp s).cmdLost = s.cmdLost
    ∧ (popToTemp s).env = s.env ∧ (popToTemp s).rp = (popRecord s).rp ∧ (popToTemp s).tRes = popResult s := by
  and_intros <;> first | rfl | exact (popRecord_frame s).1 | simp [popToTemp]

@[simp] theorem startTimer_frame (s : State) :
    (startTimer s).params = s.params ∧ (startTimer s).buf = s.buf ∧ (startTimer s).wp = s.wp
    ∧ (startTimer s).rp = s.rp ∧ (startTimer s).rtsShadow = s.rtsShadow ∧ (startTimer s).dlStart = s.dlStart
    ∧ (startTimer s).dlEnd = s.dlEnd ∧ (startTimer s).fcEn = s.fcEn ∧ (startTimer s).step = s.step
    ∧ (startTimer s).cOp = s.cOp ∧ (startTimer s).cB0 = s.cB0 ∧ (startTimer s).cB1 = s.cB1 ∧ (startTimer s).cT = s.cT
    ∧ (startTimer s).cArg = s.cArg ∧ (startTimer s).tLsr = s.tLsr ∧ (startTimer s).tData = s.tData
    ∧ (startTimer s).tMcr = s.tMcr ∧ (startTimer s).tMsr = s.tMsr ∧ (startTimer s).tCur = s.tCur
    ∧ (startTimer s).tRes = s.tRes ∧ (startTimer s).tTicks = s.tTicks ∧ (startTimer s).argLo = s.argLo
    ∧ (startTimer s).argHi = s.argHi ∧ (startTimer s).rsp = s.rsp ∧ (startTimer s).rspV0 = s.rspV0
    ∧ (startTimer s).rspV1 = s.rspV1 ∧ (startTimer s).busy = s.busy ∧ (startTimer s).cmdLost = s.cmdLost
    ∧ (startTimer s).timerStarted = true ∧ (startTimer s).env.moves = s.env.moves
    ∧ (startTimer s).env.lsrIn = s.env.lsrIn ∧ (startTimer s).env.dataIn = s.env.dataIn
    ∧ (startTimer s).env.msrIn = s.env.msrIn ∧ (startTimer s).env.cntIn = s.env.cntIn
    ∧ (startTimer s).env.mcr = s.env.mcr ∧ (startTimer s).env.drawn = s.env.drawn
    ∧ (startTimer s).env.resets = s.env.resets ∧ (startTimer s).env.hostReads = s.env.hostReads := by
  unfold startTimer; split <;> (and_intros <;> first | rfl | assumption)

/-- Where a push leaves the cursors (R101, R102). -/
theorem pushRecord_cursors (st d : Byte) (s : State) :
    let nwp := cursorNext s.params.ringSlots s.wp
    (s.params.overwriteMode = .dropOldest → (pushRecord st d s).wp = nwp
      ∧ (pushRecord st d s).rp = if nwp = s.rp then cursorNext s.params.ringSlots s.rp else s.rp)
    ∧ (s.params.overwriteMode = .holdWrite → (pushRecord st d s).wp = (if nwp = s.rp then s.wp else nwp)
      ∧ (pushRecord st d s).rp = s.rp) := by
  unfold pushRecord; refine ⟨fun h => ?_, fun h => ?_⟩ <;> simp [h]

/-- Where a pop leaves the read cursor (R103). -/
theorem popRecord_rp (s : State) :
    (popRecord s).rp = if s.rp = s.wp then s.rp else cursorNext s.params.ringSlots s.rp := by
  unfold popRecord; split <;> rfl

/-- The start micro-step's transaction (R121): one write of CNT_CTRL when the counter is not started, else none. -/
theorem startTimer_trace (s : State) :
    (startTimer s).env.trace
      = if s.timerStarted then s.env.trace else s.traceWith .write .cntCtrl s.params.cntStartWord := by
  unfold startTimer; split <;> rfl

/-- A push leaves every slot but the one at `wp` as it was (R101). -/
theorem pushRecord_ringRead_other (st d : Byte) (s : State) {a : Nat} (h : a ≠ s.wp.toNat) :
    (pushRecord st d s).ringRead a = s.ringRead a := by
  simp [State.ringRead, Memory.read_write_other _ _ h]

theorem pushRecord_ringRead_same (st d : Byte) (s : State) :
    (pushRecord st d s).ringRead s.wp.toNat = packRecord st d := by
  simp [State.ringRead, Memory.read_write_same]

/-! ## Formats -/

/-- A one-bit field is 0 but at its own bit. -/
theorem bitAt_getLsbD (b : Bool) (k j : Nat) (hj : j < 32) : (bitAt b k).getLsbD j = (decide (j = k) && b) := by
  simp only [bitAt, BitVec.getLsbD_shiftLeft, BitVec.getLsbD_setWidth, BitVec.getLsbD_ofBool]
  grind

@[simp] theorem recordStatus_packRecord (st d : Byte) : recordStatus (packRecord st d) = st := by
  apply BitVec.eq_of_getLsbD_eq; intro i hi
  simp only [recordStatus, packRecord, BitVec.getLsbD_extractLsb', BitVec.getLsbD_or, BitVec.getLsbD_shiftLeft,
    BitVec.getLsbD_setWidth]
  have : d.getLsbD (8 + i) = false := BitVec.getLsbD_of_ge _ _ (by omega)
  grind

@[simp] theorem recordData_packRecord (st d : Byte) : recordData (packRecord st d) = d := by
  apply BitVec.eq_of_getLsbD_eq; intro i hi
  simp only [recordData, packRecord, BitVec.getLsbD_extractLsb', BitVec.getLsbD_or, BitVec.getLsbD_shiftLeft,
    BitVec.getLsbD_setWidth]
  grind

/-- Every bit of RSP (R80). -/
theorem packRsp_getLsbD (i b o : Bool) (st d : Byte) (j : Nat) (hj : j < 32) :
    (packRsp i b o st d).getLsbD j
      = ((decide (j = 18) && i) || (decide (j = 17) && b) || (decide (j = 16) && o)
        || (decide (8 ≤ j) && st.getLsbD (j - 8)) || d.getLsbD j) := by
  simp only [packRsp, BitVec.getLsbD_or, bitAt_getLsbD _ _ _ hj, BitVec.getLsbD_shiftLeft, BitVec.getLsbD_setWidth]
  grind

/-- RSP's reserved bits are 0 in every response (R80). -/
theorem packRsp_reserved (i b o : Bool) (st d : Byte) : (packRsp i b o st d).extractLsb' 19 13 = 0#13 := by
  apply BitVec.eq_of_getLsbD_eq; intro k hk
  rw [BitVec.getLsbD_extractLsb', packRsp_getLsbD _ _ _ _ _ _ (by omega), BitVec.getLsbD_of_ge st _ (by omega),
    BitVec.getLsbD_of_ge d _ (by omega)]
  grind

/-- Each field of RSP reads as it was packed (R80). -/
theorem packRsp_fields (i b o : Bool) (st d : Byte) :
    (packRsp i b o st d).getLsbD 18 = i ∧ (packRsp i b o st d).getLsbD 17 = b ∧ (packRsp i b o st d).getLsbD 16 = o
    ∧ (packRsp i b o st d).extractLsb' 8 8 = st ∧ (packRsp i b o st d).extractLsb' 0 8 = d := by
  refine ⟨?_, ?_, ?_, ?_, ?_⟩
  iterate 3
    rw [packRsp_getLsbD _ _ _ _ _ _ (by omega), BitVec.getLsbD_of_ge st _ (by omega), BitVec.getLsbD_of_ge d _ (by omega)]
    simp
  · apply BitVec.eq_of_getLsbD_eq; intro k hk
    rw [BitVec.getLsbD_extractLsb', packRsp_getLsbD _ _ _ _ _ _ (by omega), BitVec.getLsbD_of_ge d _ (by omega)]
    grind
  · apply BitVec.eq_of_getLsbD_eq; intro k hk
    rw [BitVec.getLsbD_extractLsb', packRsp_getLsbD _ _ _ _ _ _ (by omega)]
    grind

end Sys2Proof.Machine
end

