-- ==== Sys2Proof/Laws/Step.lean ====
section
/-! SUPPORT. What one step, one host access and one micro-step can do, said once: later proofs about steps start from these
case lemmas. -/

namespace Sys2Proof.Machine

/-- A refused or faulting arm does not exist: `exec` always answers a next state (R180). -/
theorem exec_next (i : Instr) (s : State) : ∃ t, exec i s = .next t := by
  cases i <;> exact ⟨_, rfl⟩

/-- What a step that answers `t` was: a micro-step of the running command, the idle wait, a host access, or a reset. -/
theorem step_cases {s t : State} (h : step s = .next t) :
    (s.nextMove = .controller ∧ ((∃ i, s.running = some i ∧ exec i s.afterMove = .next t)
        ∨ (s.running = none ∧ t = s.afterMove)))
    ∨ (∃ a, s.nextMove = .host a ∧ hostAccess a s.afterMove = .next t)
    ∨ (s.nextMove = .reset ∧ t = applyReset s.afterMove) := by
  unfold step takeMove at h
  split at h
  · rename_i hm
    refine .inl ⟨hm, ?_⟩
    unfold controllerStep at h
    have hr : s.afterMove.running = s.running := rfl
    rw [hr] at h
    split at h
    · rename_i i hi; exact .inl ⟨i, hi, h⟩
    · rename_i hi; exact .inr ⟨hi, by simpa using h.symm⟩
  · rename_i a hm; exact .inr (.inl ⟨a, hm, h⟩)
  · rename_i hm; exact .inr (.inr ⟨hm, by simpa using h.symm⟩)

/-- An access that is not refused is 32 bits wide, aligned and at a register (R59). -/
theorem checkedAccess_cases {addr bytes : Nat} {act : HostReg → State → State} {s t : State}
    (h : checkedAccess addr bytes act s = .next t) :
    bytes = 4 ∧ addr % 4 = 0 ∧ ∃ r, hostRegAt s.params addr = some r ∧ t = act r s := by
  unfold checkedAccess at h
  split at h
  · cases h
  · split at h
    · cases h
    · split at h
      · rename_i hb ha _ r hr
        cases h
        exact ⟨not_not.1 hb, not_not.1 ha, r, hr, rfl⟩
      · cases h

/-- What a host access that is not refused was: a read or a write of one register of the window (R59). -/
theorem hostAccess_cases {a : HostAccess} {s t : State} (h : hostAccess a s = .next t) :
    ∃ r, (∃ addr, a = .read addr 4 ∧ hostRegAt s.params addr = some r ∧ t = hostReadMove r s)
      ∨ (∃ addr v, a = .write addr 4 v ∧ hostRegAt s.params addr = some r ∧ t = hostWrite r v s) := by
  cases a with
  | read addr bytes =>
    obtain ⟨rfl, -, r, hr, rfl⟩ := checkedAccess_cases h
    exact ⟨r, .inl ⟨addr, rfl, hr, rfl⟩⟩
  | write addr bytes v =>
    obtain ⟨rfl, -, r, hr, rfl⟩ := checkedAccess_cases h
    exact ⟨r, .inr ⟨addr, v, rfl, hr, rfl⟩⟩

/-- What a host write does (R35, R36, R78): an operand register, a lost, started or rejected CMD, or nothing. -/
theorem hostWrite_cases (r : HostReg) (v : Word) (s : State) :
    (r = .argLo ∧ hostWrite r v s = { s with argLo := v })
    ∨ (r = .argHi ∧ hostWrite r v s = { s with argHi := v })
    ∨ (r = .cmd ∧ s.busy = true ∧ hostWrite r v s = { s with cmdLost := true })
    ∨ (r = .cmd ∧ s.busy = false ∧ ∃ i, decode v = .ok i
        ∧ hostWrite r v s = { latchCommand v s with busy := true, step := firstLabel i })
    ∨ (r = .cmd ∧ s.busy = false ∧ ∃ e, decode v = .error e ∧ hostWrite r v s = reject v (latchCommand v s))
    ∨ (r ≠ .cmd ∧ r ≠ .argLo ∧ r ≠ .argHi ∧ hostWrite r v s = s) := by
  cases r <;> simp [hostWrite, writeCmd, acceptWord]
  cases hb : s.busy <;> simp
  cases hd : decode v <;> simp

/-- A register of the window is at its offset (R35). -/
theorem hostRegAt_offset (p : Params) (r : HostReg) : hostRegAt p (p.hostBase + r.offset) = some r := by
  cases r <;> simp [hostRegAt, hostRegs, HostReg.offset]

theorem hostRegAt_some {p : Params} {addr : Nat} {r : HostReg} (h : hostRegAt p addr = some r) :
    addr = p.hostBase + r.offset := by
  have := List.find?_some h
  simpa using this

/-- A host write inside the contract is one step (R59). -/
theorem step_hostWrite {s : State} (r : HostReg) (v : Word) (hb : s.params.hostBase % 4 = 0)
    (h : s.nextMove = .host (.write (s.params.hostBase + r.offset) 4 v)) : step s = .next (hostWrite r v s.afterMove) := by
  have ha : (s.params.hostBase + r.offset) % 4 = 0 := by cases r <;> simp [HostReg.offset] <;> omega
  simp [step, h, takeMove, hostAccess, checkedAccess, ha, hostRegAt_offset]

/-- A host read inside the contract is one step (R59). -/
theorem step_hostRead {s : State} (r : HostReg) (hb : s.params.hostBase % 4 = 0)
    (h : s.nextMove = .host (.read (s.params.hostBase + r.offset) 4)) : step s = .next (hostReadMove r s.afterMove) := by
  have ha : (s.params.hostBase + r.offset) % 4 = 0 := by cases r <;> simp [HostReg.offset] <;> omega
  simp [step, h, takeMove, hostAccess, checkedAccess, ha, hostRegAt_offset]

/-- With no move listed, taking the next move off changes nothing. -/
theorem afterMove_of_no_moves {s : State} (h : s.env.moves = []) : s.afterMove = s := by
  cases s with | mk => rename_i e; cases e; simp_all [State.afterMove]

/-- With no move listed, a step is the running command's micro-step. -/
theorem step_of_running {s : State} {i : Instr} (h : s.env.moves = []) (hr : s.running = some i) :
    step s = exec i s := by
  simp only [step, State.nextMove, h, List.headD_nil, takeMove, controllerStep, afterMove_of_no_moves h, hr]

/-- A run's first step. -/
theorem runSteps_succ (k : Nat) {s t : State} (h : step s = .next t) : runSteps (k + 1) s = runSteps k t := by
  simp only [runSteps, Host.Core.run, core, h]

theorem packArg_high (hi lo : Word) : (packArg hi lo).extractLsb' 32 32 = hi := by
  apply BitVec.eq_of_getLsbD_eq; intro k hk
  simp only [packArg, BitVec.getLsbD_extractLsb', BitVec.getLsbD_or, BitVec.getLsbD_shiftLeft, BitVec.getLsbD_setWidth]
  have : lo.getLsbD (32 + k) = false := BitVec.getLsbD_of_ge _ _ (by omega)
  grind

theorem packArg_low (hi lo : Word) : (packArg hi lo).extractLsb' 0 32 = lo := by
  apply BitVec.eq_of_getLsbD_eq; intro k hk
  simp only [packArg, BitVec.getLsbD_extractLsb', BitVec.getLsbD_or, BitVec.getLsbD_shiftLeft, BitVec.getLsbD_setWidth]
  grind

/-- The response of a returned record is its RSP word (R80, R81). -/
theorem record_eq (o : Option Slot) : Response.record o = ⟨recordWord o, 0#32, 0#32⟩ := by
  cases o with
  | none => rfl
  | some r =>
    simp only [Response.record, recordWord, Response.mk.injEq, and_true]
    apply BitVec.eq_of_getLsbD_eq; intro k hk
    rw [packRsp_getLsbD _ _ _ _ _ _ hk]
    simp only [recordStatus, recordData, BitVec.getLsbD_or, BitVec.getLsbD_extractLsb', BitVec.getLsbD_setWidth]
    interval_cases k <;> simp

end Sys2Proof.Machine
end

