-- ==== Sys2Proof/Laws/Ring.lean ====
section
/-! SUPPORT. The ring as a queue: the derived quantities of R24 under the cursor invariant, and what push and pop do to
the unread records, each said once. -/

namespace Sys2Proof.Machine

/-- `(a + k) mod N` without the remainder. -/
theorem add_mod_ring {n a k : Nat} (ha : a < n) (hk : k ≤ n) :
    (a + k) % n = if a + k < n then a + k else a + k - n := by
  split
  · exact Nat.mod_eq_of_lt ‹_›
  · rw [Nat.mod_eq_sub_mod (by omega), Nat.mod_eq_of_lt (by omega)]

theorem Params.wellFormed_iff (p : Params) : p.wellFormed = true ↔
    2 ≤ p.ringSlots ∧ p.ringSlots ≤ 65536 ∧ 1 ≤ p.ticksPerMs ∧ p.ticksPerMs ≤ 4294967295 ∧ p.hostBase % 4 = 0 := by
  simp [Params.wellFormed, and_assoc]

section
variable {s : State}

/-- `count` without the remainder (R24). -/
theorem CursorInv.count_eq (h : CursorInv s) : s.count =
    if s.rp.toNat ≤ s.wp.toNat then s.wp.toNat - s.rp.toNat else s.wp.toNat + s.params.ringSlots - s.rp.toNat := by
  obtain ⟨-, hw, hr⟩ := h
  unfold State.count
  split
  · rw [show s.wp.toNat + s.params.ringSlots - s.rp.toNat = s.wp.toNat - s.rp.toNat + s.params.ringSlots by omega,
      Nat.add_mod_right, Nat.mod_eq_of_lt (by omega)]
  · exact Nat.mod_eq_of_lt (by omega)

/-- R25 point 2. -/
theorem CursorInv.count_le (h : CursorInv s) : s.count ≤ s.params.ringSlots - 1 := by
  have := h.count_eq
  obtain ⟨-, hw, hr⟩ := h
  split at this <;> omega

theorem CursorInv.count_zero_iff (h : CursorInv s) : s.count = 0 ↔ s.wp = s.rp := by
  rw [← BitVec.toNat_inj, h.count_eq]
  obtain ⟨-, hw, hr⟩ := h
  split <;> omega

/-- The write cursor is `count` slots after the read cursor. -/
theorem CursorInv.rp_add_count (h : CursorInv s) : (s.rp.toNat + s.count) % s.params.ringSlots = s.wp.toNat := by
  have hc := h.count_eq
  have hl := h.count_le
  obtain ⟨-, hw, hr⟩ := h
  rw [add_mod_ring hr (by omega)]
  split at hc <;> split <;> omega

/-- Full means that the slot after `wp` is `rp` (R24, R101). -/
theorem CursorInv.full_iff (h : CursorInv s) :
    s.count = s.params.ringSlots - 1 ↔ (s.wp.toNat + 1) % s.params.ringSlots = s.rp.toNat := by
  have hc := h.count_eq
  obtain ⟨hp, hw, hr⟩ := h
  have hn := (Params.wellFormed_iff _).1 hp
  rw [add_mod_ring hw (by omega)]
  split at hc <;> split <;> omega

theorem CursorInv.next_eq_iff (h : CursorInv s) :
    cursorNext s.params.ringSlots s.wp = s.rp ↔ s.count = s.params.ringSlots - 1 := by
  have hn := (Params.wellFormed_iff _).1 h.1
  rw [h.full_iff, ← BitVec.toNat_inj, cursorNext_toNat hn.2.1 _ h.2.1]

@[simp] theorem unread_length : s.unread.length = s.count := by simp [State.unread]

theorem unread_getElem {k : Nat} (hk : k < s.unread.length) :
    s.unread[k] = s.ringRead ((s.rp.toNat + k) % s.params.ringSlots) := by
  simp [State.unread]

/-- An unread slot is never the one the next push writes (R101). -/
theorem CursorInv.unread_ne_wp (h : CursorInv s) {k : Nat} (hk : k < s.count) :
    (s.rp.toNat + k) % s.params.ringSlots ≠ s.wp.toNat := by
  have hl := h.count_le
  have hc := h.rp_add_count
  obtain ⟨-, hw, hr⟩ := h
  rw [← hc, add_mod_ring hr (by omega), add_mod_ring hr (by omega)]
  split <;> split <;> omega

theorem CursorInv.push (h : CursorInv s) (st d : Byte) : CursorInv (pushRecord st d s) := by
  have hn := (Params.wellFormed_iff _).1 h.1
  have hw := cursorNext_lt hn.2.1 _ h.2.1
  have hr := cursorNext_lt hn.2.1 _ h.2.2
  have hcs := pushRecord_cursors st d s
  refine ⟨by simpa using h.1, ?_⟩
  cases hm : s.params.overwriteMode
  · rw [(hcs.1 hm).1, (hcs.1 hm).2]
    refine ⟨by simpa using hw, ?_⟩
    split
    · simpa using hr
    · simpa using h.2.2
  · rw [(hcs.2 hm).1, (hcs.2 hm).2]
    refine ⟨?_, by simpa using h.2.2⟩
    split
    · simpa using h.2.1
    · simpa using hw

theorem CursorInv.pop (h : CursorInv s) : CursorInv (popRecord s) := by
  have hn := (Params.wellFormed_iff _).1 h.1
  refine ⟨by simpa using h.1, by simpa using h.2.1, ?_⟩
  rw [popRecord_rp]
  split
  · simpa using h.2.2
  · simpa using cursorNext_lt hn.2.1 _ h.2.2

/-- Where a push under DROP_OLDEST leaves the cursors, as numbers (R101). -/
theorem CursorInv.push_drop_cursors (h : CursorInv s) (st d : Byte) (hm : s.params.overwriteMode = .dropOldest) :
    (pushRecord st d s).wp.toNat = (s.wp.toNat + 1) % s.params.ringSlots
    ∧ (pushRecord st d s).rp.toNat
      = if s.count = s.params.ringSlots - 1 then (s.rp.toNat + 1) % s.params.ringSlots else s.rp.toNat := by
  have hn := (Params.wellFormed_iff _).1 h.1
  obtain ⟨h1, h2⟩ := (pushRecord_cursors st d s).1 hm
  rw [h1, h2, cursorNext_toNat hn.2.1 _ h.2.1]
  refine ⟨rfl, ?_⟩
  simp only [h.next_eq_iff]
  split
  · exact cursorNext_toNat hn.2.1 _ h.2.2
  · rfl

/-- Where a push under HOLD_WRITE leaves the cursors, as numbers (R102). -/
theorem CursorInv.push_hold_cursors (h : CursorInv s) (st d : Byte) (hm : s.params.overwriteMode = .holdWrite) :
    (pushRecord st d s).rp = s.rp
    ∧ (pushRecord st d s).wp.toNat
      = if s.count = s.params.ringSlots - 1 then s.wp.toNat else (s.wp.toNat + 1) % s.params.ringSlots := by
  have hn := (Params.wellFormed_iff _).1 h.1
  obtain ⟨h1, h2⟩ := (pushRecord_cursors st d s).2 hm
  rw [h1, h2]
  refine ⟨rfl, ?_⟩
  simp only [h.next_eq_iff]
  split
  · rfl
  · exact cursorNext_toNat hn.2.1 _ h.2.1

/-- A push adds one record until the buffer is full, in either mode (R101, R102). -/
theorem CursorInv.push_count (h : CursorInv s) (st d : Byte) :
    (pushRecord st d s).count = min (s.count + 1) (s.params.ringSlots - 1) := by
  have hn := (Params.wellFormed_iff _).1 h.1
  have hc' := (h.push st d).count_eq
  have hc := h.count_eq
  have hl := h.count_le
  obtain ⟨-, hw, hr⟩ := id h
  have aw := add_mod_ring hw (k := 1) (by omega)
  have ar := add_mod_ring hr (k := 1) (by omega)
  cases hm : s.params.overwriteMode
  · obtain ⟨h1, h2⟩ := h.push_drop_cursors st d hm
    rw [h1, h2] at hc'
    simp only [pushRecord_frame] at hc'
    rw [hc', aw, ar]
    split at hc <;> grind
  · obtain ⟨h1, h2⟩ := h.push_hold_cursors st d hm
    rw [h1, h2] at hc'
    simp only [pushRecord_frame] at hc'
    rw [hc', aw]
    split at hc <;> grind

/-- Two unread queues are equal when they have the same records at the same places. -/
theorem unread_eq {t : State} {q : List Slot} (hl : t.count = q.length)
    (h : ∀ k (hk : k < q.length), t.ringRead ((t.rp.toNat + k) % t.params.ringSlots) = q[k]) : t.unread = q := by
  refine List.ext_getElem (by simpa using hl) fun k h1 h2 => ?_
  rw [unread_getElem, h k h2]

/-- What a push does to the unread records, in either mode (R101, R102). -/
theorem CursorInv.push_unread (h : CursorInv s) (st d : Byte) : (pushRecord st d s).unread
    = queuePush s.params.overwriteMode (s.params.ringSlots - 1) (packRecord st d) s.unread := by
  have hn := (Params.wellFormed_iff _).1 h.1
  have hc := h.push_count st d
  have hl := h.count_le
  have hwp := h.rp_add_count
  obtain ⟨-, hw, hr⟩ := id h
  have old : ∀ k, k < s.count → (pushRecord st d s).ringRead ((s.rp.toNat + k) % s.params.ringSlots)
      = s.ringRead ((s.rp.toNat + k) % s.params.ringSlots) :=
    fun k hk => pushRecord_ringRead_other st d s (h.unread_ne_wp hk)
  unfold queuePush
  rw [unread_length]
  by_cases hf : s.count = s.params.ringSlots - 1
  · rw [if_neg (by omega)]
    cases hm : s.params.overwriteMode
    · obtain ⟨-, h2⟩ := h.push_drop_cursors st d hm
      rw [if_pos hf] at h2
      refine unread_eq (by simp; omega) fun k hk => ?_
      have e : ((s.rp.toNat + 1) % s.params.ringSlots + k) % s.params.ringSlots
          = (s.rp.toNat + (k + 1)) % s.params.ringSlots := by
        rw [Nat.mod_add_mod]; congr 1; omega
      simp only [h2, pushRecord_frame, e, List.getElem_tail, List.getElem_append]
      simp at hk
      split
      · rename_i hk1
        rw [old _ (by simpa using hk1), unread_getElem]
      · rename_i hk1
        have : k + 1 = s.count := by simp at hk1; omega
        rw [List.getElem_singleton, this, hwp, pushRecord_ringRead_same]
    · obtain ⟨h1, -⟩ := h.push_hold_cursors st d hm
      refine unread_eq (by simp; omega) fun k hk => ?_
      rw [unread_length] at hk
      simp only [h1, pushRecord_frame]
      rw [old k hk, unread_getElem]
  · rw [if_pos (by omega)]
    have hrp : (pushRecord st d s).rp.toNat = s.rp.toNat := by
      cases hm : s.params.overwriteMode
      · rw [(h.push_drop_cursors st d hm).2, if_neg hf]
      · rw [(h.push_hold_cursors st d hm).1]
    refine unread_eq (by simp; omega) fun k hk => ?_
    simp at hk
    simp only [hrp, pushRecord_frame, List.getElem_append]
    split
    · rename_i hk1
      rw [old k (by simpa using hk1), unread_getElem]
    · rename_i hk1
      have : k = s.count := by simp at hk1; omega
      rw [List.getElem_singleton, this, hwp, pushRecord_ringRead_same]

/-- What a pop returns is the head of the unread records (R103). -/
theorem CursorInv.pop_result (h : CursorInv s) : popResult s = s.unread.head? := by
  unfold popResult
  have hz := h.count_zero_iff
  split
  · rename_i he
    have : s.unread = [] := List.eq_nil_of_length_eq_zero (by rw [unread_length]; exact hz.2 he.symm)
    simp [this]
  · rename_i he
    have hpos : 0 < s.unread.length := by
      rw [unread_length]; exact Nat.pos_of_ne_zero fun h0 => he (hz.1 h0).symm
    rw [List.head?_eq_getElem?, List.getElem?_eq_getElem hpos, unread_getElem, Nat.add_zero, Nat.mod_eq_of_lt h.2.2]

/-- What a pop leaves unread (R103). -/
theorem CursorInv.pop_unread (h : CursorInv s) : (popRecord s).unread = s.unread.tail := by
  have hz := h.count_zero_iff
  have hn := (Params.wellFormed_iff _).1 h.1
  have hrp := popRecord_rp s
  by_cases he : s.rp = s.wp
  · have : s.unread = [] := List.eq_nil_of_length_eq_zero (by rw [unread_length]; exact hz.2 he.symm)
    rw [popRecord, if_pos he, this]; rfl
  · rw [if_neg he] at hrp
    have hpos : s.count ≠ 0 := fun h0 => he (hz.1 h0).symm
    have hnext := cursorNext_toNat hn.2.1 _ h.2.2
    have hc := h.count_eq
    have hc' := h.pop.count_eq
    simp only [popRecord_frame, hrp, hnext] at hc'
    obtain ⟨-, hw, hr⟩ := id h
    have ar := add_mod_ring hr (k := 1) (by omega)
    have cnt : (popRecord s).count = s.count - 1 := by
      rw [hc', ar]; split at hc <;> grind
    refine unread_eq (by simp [cnt]) fun k hk => ?_
    have e : ((s.rp.toNat + 1) % s.params.ringSlots + k) % s.params.ringSlots
        = (s.rp.toNat + (k + 1)) % s.params.ringSlots := by
      rw [Nat.mod_add_mod]; congr 1; omega
    rw [List.getElem_tail, unread_getElem]
    simp [hrp, hnext, e, State.ringRead]

/-- The ring's invariant is about the ring and the parameters alone. -/
theorem RingInv.of_same {t : State} (h : RingInv s) (hp : t.params = s.params) (hr : SameRing s t) : RingInv t := by
  obtain ⟨h1, h2, h3, -⟩ := hr
  unfold RingInv CursorInv MemoryInv WrittenInv State.count at *
  rw [hp, h1, h2, h3]; exact h

theorem count_of_same {t : State} (hp : t.params = s.params) (hr : SameRing s t) : t.count = s.count := by
  obtain ⟨-, h2, h3, -⟩ := hr
  unfold State.count; rw [hp, h2, h3]

/-- So is what the ring holds. -/
theorem unread_of_same {t : State} (hp : t.params = s.params) (hr : SameRing s t) : t.unread = s.unread := by
  have hc := count_of_same hp hr
  obtain ⟨h1, -, h3, h4⟩ := hr
  unfold State.unread State.ringRead; rw [hc, hp, h1, h3, h4]

/-- Every unread slot stays written through a push (R25 point 3). -/
theorem RingInv.push (h : RingInv s) (st d : Byte) : RingInv (pushRecord st d s) := by
  obtain ⟨hc, ⟨hm1, hm2⟩, hwr⟩ := h
  refine ⟨hc.push st d, ⟨by simpa using Memory.wf_write _ _ hm1, fun x hx => ?_⟩, fun k hk => ?_⟩
  · simp only [pushRecord_frame] at hx ⊢
    rcases Memory.mem_write hx with rfl | hx
    · exact hc.2.1
    · exact hm2 x hx
  · have hn := (Params.wellFormed_iff _).1 hc.1
    have hcnt := hc.push_count st d
    have hl := hc.count_le
    have hwp := hc.rp_add_count
    have key : ∀ j, j ≤ s.count →
        ((pushRecord st d s).buf.read ((s.rp.toNat + j) % s.params.ringSlots)).isSome = true := by
      intro j hj
      simp only [pushRecord_frame]
      by_cases hj' : j = s.count
      · rw [hj', hwp, Memory.read_write_same]; rfl
      · rw [Memory.read_write_other _ _ (hc.unread_ne_wp (by omega))]; exact hwr j (by omega)
    by_cases hf : s.count = s.params.ringSlots - 1
    · cases hm : s.params.overwriteMode
      · have h2 := (hc.push_drop_cursors st d hm).2
        rw [if_pos hf] at h2
        have e : ((s.rp.toNat + 1) % s.params.ringSlots + k) % s.params.ringSlots
            = (s.rp.toNat + (k + 1)) % s.params.ringSlots := by
          rw [Nat.mod_add_mod]; congr 1; omega
        rw [h2, show (pushRecord st d s).params = s.params by simp, e]
        exact key _ (by omega)
      · rw [(hc.push_hold_cursors st d hm).1, show (pushRecord st d s).params = s.params by simp]
        exact key _ (by omega)
    · have hrp : (pushRecord st d s).rp.toNat = s.rp.toNat := by
        cases hm : s.params.overwriteMode
        · rw [(hc.push_drop_cursors st d hm).2, if_neg hf]
        · rw [(hc.push_hold_cursors st d hm).1]
      rw [hrp, show (pushRecord st d s).params = s.params by simp]
      exact key _ (by omega)

/-- Every unread slot stays written through a pop (R25 point 3). -/
theorem RingInv.pop (h : RingInv s) : RingInv (popRecord s) := by
  obtain ⟨hc, hm, hwr⟩ := h
  refine ⟨hc.pop, by simpa [MemoryInv] using hm, fun k hk => ?_⟩
  have hn := (Params.wellFormed_iff _).1 hc.1
  have hrp := popRecord_rp s
  have hlen : (popRecord s).count = s.count - 1 := by
    rw [← unread_length, hc.pop_unread, List.length_tail, unread_length]
  by_cases he : s.rp = s.wp
  · have := hc.count_zero_iff.2 he.symm; omega
  · rw [if_neg he] at hrp
    have e : ((s.rp.toNat + 1) % s.params.ringSlots + k) % s.params.ringSlots
        = (s.rp.toNat + (k + 1)) % s.params.ringSlots := by
      rw [Nat.mod_add_mod]; congr 1; omega
    simp only [popRecord_frame, hrp, cursorNext_toNat hn.2.1 _ hc.2.2, e]
    exact hwr _ (by omega)

end

end Sys2Proof.Machine
end

