-- ==== Sys2Proof/Laws/MicroStep.lean ====
section
/-! SUPPORT. Everything one micro-step can do, said once: `MicroStep s t` lists the edges of R30's label graph with the
condition and the operation of each, and every `exec` of the running command is one of them. Invariants are proved by
cases on it, with no unfolding of a meaning. -/

namespace Sys2Proof.Machine

/-- From X.k to X.(k+1), in the four drains of R141. -/
def lsrEdges : List (Label × Label) := [(.poll1, .poll2), (.wb1, .wb2), (.rn1, .rn2), (.rt3, .rt4)]
/-- From X.(k+1) back to X.k. -/
def dataEdges : List (Label × Label) := [(.poll2, .poll1), (.wb2, .wb1), (.rn2, .rn1), (.rt4, .rt3)]
/-- From X.(k+1) to X.(k+2). -/
def stopEdges : List (Label × Label) := [(.poll2, .poll3), (.wb2, .wb3), (.rn2, .rn3), (.rt4, .rt5)]
/-- From X.(k+2) to X.(k+3). -/
def mcrReadEdges : List (Label × Label) := [(.poll3, .poll4), (.wb3, .wb4), (.rn3, .rn4), (.rt5, .rt6)]
/-- From X.(k+3) back to X.k. -/
def mcrWriteEdges : List (Label × Label) := [(.poll4, .poll1), (.wb4, .wb1), (.rn4, .rn1), (.rt6, .rt3)]

/-- The edges of the label graph (R30 and the command rules), from state `s`. -/
inductive MicroStep (s : State) : State → Prop where
  | push : s.step = .push1 → MicroStep s (finish .zero (pushRecord s.cB1 s.cB0 s))
  | pop : s.step = .pop1 → MicroStep s (finish (.record (popResult s)) (popRecord s))
  | nearlyFull : s.step = .nf1 → MicroStep s (finish (.bool (s.nearlyFull s.threshold)) s)
  | below : s.step = .bl1 → MicroStep s (finish (.bool (s.below s.threshold)) s)
  | start (l : Label) : (s.step, l) ∈ [(Label.now1, Label.now2), (.da1, .da2), (.rc1, .rc2)] →
      MicroStep s (goto l (startTimer s))
  | begin (l : Label) (k : Nat) :
      s.step = .sm1 ∧ l = .sm2 ∧ k = s.millisecondTicks ∨ s.step = .ss1 ∧ l = .ss2 ∧ k = s.secondTicks
        ∨ s.step = .rt1 ∧ s.cT = true ∧ l = .rt2 ∧ k = s.secondTicks →
      MicroStep s (goto l (startTimer (setTicks k s)))
  | beginForever : s.step = .rt1 → s.cT = false → MicroStep s (goto .rt3 s)
  | now : s.step = .now2 → MicroStep s (finish (.counter s.nextCnt) (readCnt s))
  | deadlineAfter : s.step = .da2 →
      MicroStep s (finish (.deadline (deadlineEnd s.nextCnt s.ticks) s.nextCnt) (formDeadline s.ticks (readCnt s)))
  | reached : s.step = .rc2 →
      MicroStep s (finish (.comparison (deadlineReached s.nextCnt s.startOperand s.endOperand) s.nextCnt) (readCnt s))
  | deadline (l : Label) : (s.step, l) ∈ [(Label.rt2, Label.rt3), (.sm2, .sm3), (.ss2, .ss3)] →
      MicroStep s (goto l (formDeadline s.tTicks (readCnt s)))
  | waitDone : s.step ∈ [Label.rt10, .sm3, .ss3] → deadlineReached s.nextCnt s.dlStart s.dlEnd = true →
      MicroStep s (finish .zero (readCnt s))
  | waitMore (l : Label) : (s.step, l) ∈ [(Label.rt10, Label.rt3), (.sm3, .sm3), (.ss3, .ss3)] →
      deadlineReached s.nextCnt s.dlStart s.dlEnd = false → MicroStep s (goto l (readCnt s))
  | drainMore (l : Label) : (s.step, l) ∈ lsrEdges → s.nextLsr.getLsbD 0 = true → MicroStep s (goto l (readLsr s))
  | drainData (l : Label) : (s.step, l) ∈ dataEdges →
      (s.fcEn && (pushRecord s.tLsr s.nextData (readData s)).nearlyFull s.params.stopFree) = false →
      MicroStep s (goto l (pushRecord s.tLsr s.nextData (readData s)))
  | drainDataStop (l : Label) : (s.step, l) ∈ stopEdges → s.fcEn = true →
      (pushRecord s.tLsr s.nextData (readData s)).nearlyFull s.params.stopFree = true →
      MicroStep s (goto l (pushRecord s.tLsr s.nextData (readData s)))
  | drainMcrRead (l : Label) : (s.step, l) ∈ mcrReadEdges → MicroStep s (goto l (readMcr s))
  | drainMcrWrite (l : Label) : (s.step, l) ∈ mcrWriteEdges → MicroStep s (goto l (writeRts false s))
  | poll : s.step = .poll1 → s.nextLsr.getLsbD 0 = false → MicroStep s (finish (.status s.nextLsr) (readLsr s))
  | gate (l : Label) : s.step = .wb1 → s.nextLsr.getLsbD 0 = false →
      s.nextLsr.getLsbD 5 = false ∧ l = .wb1 ∨ s.nextLsr.getLsbD 5 = true ∧ s.fcEn = true ∧ l = .wb5
        ∨ s.nextLsr.getLsbD 5 = true ∧ s.fcEn = false ∧ l = .wb6 →
      MicroStep s (goto l (readLsr s))
  | ctsOn : s.step = .wb5 → s.nextMsr.getLsbD 4 = true → MicroStep s (goto .wb6 (readMsr s))
  | ctsOff : s.step = .wb5 → s.nextMsr.getLsbD 4 = false → MicroStep s (goto .wb1 (readMsr s))
  | transmit : s.step = .wb6 → MicroStep s (finish .zero (writeData s.cB0 s))
  | drained (l : Label) : (s.step, l) ∈ [(Label.rn1, Label.rn5), (.rt3, .rt7)] → s.nextLsr.getLsbD 0 = false →
      MicroStep s (goto l (readLsr s))
  | popResume (l : Label) : (s.step, l) ∈ [(Label.rn5, Label.rn6), (.rt7, .rt8)] → s.fcEn = true →
      (popToTemp s).below s.params.resumeLevel = true → MicroStep s (goto l (popToTemp s))
  | popDone : s.step = .rn5 ∨ s.step = .rt7 ∧ (popResult s).isSome = true → (popToTemp s).resumeDue = false →
      MicroStep s (finish (.record (popResult s)) (popToTemp s))
  | popRetry (l : Label) : s.step = .rt7 → popResult s = none → (popToTemp s).resumeDue = false →
      s.cT = true ∧ l = .rt10 ∨ s.cT = false ∧ l = .rt3 → MicroStep s (goto l (popToTemp s))
  | resumeRead (l : Label) : (s.step, l) ∈ [(Label.rn6, Label.rn7), (.rt8, .rt9)] → MicroStep s (goto l (readMcr s))
  | resumeDone : s.step = .rn7 ∨ s.step = .rt9 ∧ s.tRes.isSome = true →
      MicroStep s (finish (.record s.tRes) (writeRts true s))
  | resumeRetry (l : Label) : s.step = .rt9 → s.tRes = none →
      s.cT = true ∧ l = .rt10 ∨ s.cT = false ∧ l = .rt3 → MicroStep s (goto l (writeRts true s))

/-! Each part of a meaning is an edge. -/

theorem drainLsr_cases {d : DrainLabels} {exit : State → State} {s : State} (hs : (s.step, d.data) ∈ lsrEdges)
    (h : s.nextLsr.getLsbD 0 = false → MicroStep s (exit (readLsr s))) : MicroStep s (drainLsr d exit s) := by
  unfold drainLsr
  simp only [readLsr_fields]
  split
  · exact .drainMore _ hs ‹_›
  · exact h (eq_false_of_ne_true ‹_›)

theorem drainData_cases {d : DrainLabels} {s : State} (hs : (s.step, d.lsr) ∈ dataEdges)
    (hs' : (s.step, d.mcrRead) ∈ stopEdges) : MicroStep s (drainData d s) := by
  have e : drainData d s = if (s.fcEn && (pushRecord s.tLsr s.nextData (readData s)).nearlyFull s.params.stopFree)
      then goto d.mcrRead (pushRecord s.tLsr s.nextData (readData s))
      else goto d.lsr (pushRecord s.tLsr s.nextData (readData s)) := by
    simp only [drainData, readData_fields, pushRecord_frame]
  rw [e]
  split
  · rename_i h; rw [Bool.and_eq_true] at h; exact .drainDataStop _ hs' h.1 h.2
  · exact .drainData _ hs (eq_false_of_ne_true ‹_›)

theorem writeGate_cases {s : State} (hs : s.step = .wb1) (hl : s.nextLsr.getLsbD 0 = false) :
    MicroStep s (writeGate (readLsr s)) := by
  simp only [writeGate, readLsr_fields]
  split
  · split
    · exact .gate _ hs hl (.inr (.inl ⟨‹_›, ‹_›, rfl⟩))
    · exact .gate _ hs hl (.inr (.inr ⟨‹_›, eq_false_of_ne_true ‹_›, rfl⟩))
  · exact .gate _ hs hl (.inl ⟨eq_false_of_ne_true ‹_›, rfl⟩)

theorem waiting_cases {s : State} {l : Label}
    (hs : (s.step, l) ∈ [(Label.rt10, Label.rt3), (.sm3, .sm3), (.ss3, .ss3)]) :
    MicroStep s (if (readCnt s).deadlinePassed then finish .zero (readCnt s) else goto l (readCnt s)) := by
  have e : (readCnt s).deadlinePassed = deadlineReached s.nextCnt s.dlStart s.dlEnd := rfl
  rw [e]
  split
  · refine .waitDone ?_ ‹_›
    simp only [List.mem_cons, Prod.mk.injEq, List.not_mem_nil, or_false] at hs ⊢
    tauto
  · exact .waitMore l hs (eq_false_of_ne_true ‹_›)

theorem afterRead_pop {s : State} (hs : s.step = .rt7) (hr : (popToTemp s).resumeDue = false) :
    MicroStep s (afterRead s.cT (popToTemp s)) := by
  unfold afterRead finishRecord
  simp only [popToTemp_frame]
  cases hp : popResult s with
  | none =>
    cases ht : s.cT
    · simpa using MicroStep.popRetry .rt3 hs hp hr (.inr ⟨ht, rfl⟩)
    · simpa using MicroStep.popRetry .rt10 hs hp hr (.inl ⟨ht, rfl⟩)
  | some r =>
    have := MicroStep.popDone (.inr ⟨hs, by simp [hp]⟩) hr
    simpa [hp] using this

theorem afterRead_rts {s : State} (hs : s.step = .rt9) : MicroStep s (afterRead s.cT (writeRts true s)) := by
  unfold afterRead finishRecord
  simp only [writeRts_fields]
  cases hp : s.tRes with
  | none =>
    cases ht : s.cT
    · simpa using MicroStep.resumeRetry .rt3 hs hp (.inr ⟨ht, rfl⟩)
    · simpa using MicroStep.resumeRetry .rt10 hs hp (.inl ⟨ht, rfl⟩)
  | some r =>
    have := MicroStep.resumeDone (.inr ⟨hs, by simp [hp]⟩)
    simpa [hp] using this

theorem popAndResume_cases {s : State} {l : Label} {after : State → State}
    (hs : (s.step, l) ∈ [(Label.rn5, Label.rn6), (.rt7, .rt8)])
    (h : (popToTemp s).resumeDue = false → MicroStep s (after (popToTemp s))) :
    MicroStep s (popAndResume l after s) := by
  simp only [popAndResume]
  split
  · rename_i hr
    simp only [State.resumeDue, popToTemp_frame, Bool.and_eq_true] at hr
    exact .popResume l hs hr.1 hr.2
  · exact h (eq_false_of_ne_true ‹_›)

/-- Every micro-step of the running command is an edge of the label graph. -/
theorem microStep_of_exec {i : Instr} {s t : State} (hr : s.running = some i) (h : exec i s = .next t) :
    MicroStep s t := by
  cases hs : s.step <;> rw [State.running, hs] at hr <;> cases hr <;>
    simp only [exec, execPush, execPop, execNearlyFull, execBelow, execNow, execDeadlineAfter, execReached, execPoll,
      execWriteByte, execReadNb, execReadTo, execSleepMs, execSleepS, hs, Host.Outcome.next.injEq] at h <;> subst h
  case push1 => exact .push hs
  case pop1 => exact .pop hs
  case nf1 => exact .nearlyFull hs
  case bl1 => exact .below hs
  case now1 => exact .start _ (by simp [hs])
  case now2 => exact .now hs
  case da1 => exact .start _ (by simp [hs])
  case da2 => exact .deadlineAfter hs
  case rc1 => exact .start _ (by simp [hs])
  case rc2 => exact .reached hs
  case poll1 => exact drainLsr_cases (by rw [hs]; decide) (fun h => .poll hs h)
  case poll2 => exact drainData_cases (by rw [hs]; decide) (by rw [hs]; decide)
  case poll3 => exact .drainMcrRead _ (by rw [hs]; decide)
  case poll4 => exact .drainMcrWrite _ (by rw [hs]; decide)
  case wb1 => exact drainLsr_cases (by rw [hs]; decide) (writeGate_cases hs)
  case wb2 => exact drainData_cases (by rw [hs]; decide) (by rw [hs]; decide)
  case wb3 => exact .drainMcrRead _ (by rw [hs]; decide)
  case wb4 => exact .drainMcrWrite _ (by rw [hs]; decide)
  case wb5 =>
    simp only [writeCts, readMsr_fields]
    split
    · exact .ctsOn hs ‹_›
    · exact .ctsOff hs (eq_false_of_ne_true ‹_›)
  case wb6 => exact .transmit hs
  case rn1 => exact drainLsr_cases (by rw [hs]; decide) (fun h => .drained _ (by simp [hs]) h)
  case rn2 => exact drainData_cases (by rw [hs]; decide) (by rw [hs]; decide)
  case rn3 => exact .drainMcrRead _ (by rw [hs]; decide)
  case rn4 => exact .drainMcrWrite _ (by rw [hs]; decide)
  case rn5 => exact popAndResume_cases (by simp [hs]) (fun h => by simpa [finishRecord] using MicroStep.popDone (.inl hs) h)
  case rn6 => exact .resumeRead _ (by simp [hs])
  case rn7 => simpa [finishRecord] using MicroStep.resumeDone (.inl hs)
  case rt1 =>
    simp only [readToBegin]
    split
    · exact .begin _ _ (.inr (.inr ⟨hs, ‹_›, rfl, rfl⟩))
    · exact .beginForever hs (eq_false_of_ne_true ‹_›)
  case rt2 => exact .deadline _ (by simp [hs])
  case rt3 => exact drainLsr_cases (by rw [hs]; decide) (fun h => .drained _ (by simp [hs]) h)
  case rt4 => exact drainData_cases (by rw [hs]; decide) (by rw [hs]; decide)
  case rt5 => exact .drainMcrRead _ (by rw [hs]; decide)
  case rt6 => exact .drainMcrWrite _ (by rw [hs]; decide)
  case rt7 => exact popAndResume_cases (by simp [hs]) (afterRead_pop hs)
  case rt8 => exact .resumeRead _ (by simp [hs])
  case rt9 => exact afterRead_rts hs
  case rt10 => exact waiting_cases (by simp [hs])
  case sm1 => exact .begin _ _ (.inl ⟨hs, rfl, rfl⟩)
  case sm2 => exact .deadline _ (by simp [hs])
  case sm3 => exact waiting_cases (by simp [hs])
  case ss1 => exact .begin _ _ (.inr (.inl ⟨hs, rfl, rfl⟩))
  case ss2 => exact .deadline _ (by simp [hs])
  case ss3 => exact waiting_cases (by simp [hs])

/-- What a step that answers `t` was, down to the edges and the host's writes. -/
theorem step_edges {s t : State} (h : step s = .next t) :
    (s.nextMove = .controller ∧ (MicroStep s.afterMove t ∨ s.step = .idle ∧ t = s.afterMove))
    ∨ (∃ r, (∃ addr, s.nextMove = .host (.read addr 4) ∧ addr = s.params.hostBase + r.offset
          ∧ t = hostReadMove r s.afterMove)
        ∨ (∃ addr v, s.nextMove = .host (.write addr 4 v) ∧ addr = s.params.hostBase + r.offset
          ∧ t = hostWrite r v s.afterMove))
    ∨ (s.nextMove = .reset ∧ t = applyReset s.afterMove) := by
  rcases step_cases h with ⟨hm, ⟨i, hr, he⟩ | ⟨hr, rfl⟩⟩ | ⟨a, hm, ha⟩ | hreset
  · exact .inl ⟨hm, .inl (microStep_of_exec (i := i) hr he)⟩
  · refine .inl ⟨hm, .inr ⟨?_, rfl⟩⟩
    cases hs : s.step <;> simp [State.running, hs] at hr
    rfl
  · obtain ⟨r, ⟨addr, rfl, hra, rfl⟩ | ⟨addr, v, rfl, hra, rfl⟩⟩ := hostAccess_cases ha
    · exact .inr (.inl ⟨r, .inl ⟨addr, hm, hostRegAt_some hra, rfl⟩⟩)
    · exact .inr (.inl ⟨r, .inr ⟨addr, v, hm, hostRegAt_some hra, rfl⟩⟩)
  · exact .inr (.inr hreset)

end Sys2Proof.Machine
end

