-- ==== Sys2Proof/Laws/PerInstr.lean ====
section
/-! SUPPORT. Statements made once for every constructor of `Instr`: the word of each command is well formed by its
fields (R70, R75). -/

namespace Sys2Proof.Laws.EncodeWellFormed

/-- The command's word is legal by its fields, whatever its operands. -/
def Statement (i : Instr) : Prop := Word.wellFormed (encode i) = true

theorem push (status data : Byte) : Statement (.push status data) := by
  simp [Statement, encode, packWord_wellFormed]

theorem pop : Statement .pop := rfl

theorem nearlyFull : Statement .nearlyFull := rfl

theorem below : Statement .below := rfl

theorem now : Statement .now := rfl

theorem deadlineAfter : Statement .deadlineAfter := rfl

theorem reached : Statement .reached := rfl

theorem poll : Statement .poll := rfl

theorem writeByte (b : Byte) : Statement (.writeByte b) := by
  simp [Statement, encode, packWord_wellFormed]

theorem readNb : Statement .readNb := rfl

theorem readTo (t : Bool) : Statement (.readTo t) := by
  cases t <;> rfl

theorem sleepMs : Statement .sleepMs := rfl

theorem sleepS : Statement .sleepS := rfl

end Sys2Proof.Laws.EncodeWellFormed
end

