-- ==== Sys2Proof/Tests/Slice0.lean ====
section
/-! SUPPORT. Small tests: ill-formed terms the checks refuse, words decoded bit by bit, one step of each command on
vectors of 95_test_vectors.md and the rules' own examples (each comment names its source), and a witness for the
hypotheses of each obligation. -/

namespace Sys2Proof.Tests

open Sys2Proof Sys2Proof.Machine

/-! ## Builders -/

/-- Small parameters: N = 4, flow control on, STOP_FREE = 1, RESUME_LEVEL = 2, 1000 ticks a millisecond. -/
def smallParams : Params where
  ringSlots := 4
  overwriteMode := .dropOldest
  flowControl := true
  stopFree := 1
  resumeLevel := 2
  ticksPerMs := 1000
  cntStartWord := 0x80000000#32
  uartAddrData := 0x100
  uartAddrLsr := 0x101
  uartAddrMcr := 0x102
  uartAddrMsr := 0x103
  cntAddrVal := 0x200
  cntAddrCtrl := 0x204
  hostBase := 0x1000

/-- An environment that supplies these values. -/
def supplying (lsr data msr : List Byte) (cnt : List Word) : Env :=
  { moves := [], lsrIn := lsr, dataIn := data, msrIn := msr, cntIn := cnt, mcr := 0x01#8, drawn := 0, resets := 0,
    trace := [], hostReads := [] }

/-- The reset state under given parameters and inputs. -/
def fresh (p : Params) (e : Env) : State := State.atReset p e

/-- A quiet reset state. -/
def quiet : State := fresh smallParams (supplying [0x60#8] [0x41#8] [0x10#8] [0x1234#32])

/-- `s` with command `i` running at label `l`, operand `arg` latched. -/
def running (i : Instr) (l : Label) (arg : DWord) (s : State) : State :=
  { latchCommand (encode i) s with busy := true, step := l, cArg := arg }

/-- `s` with the schedule replaced. -/
def withMoves (ms : List Move) (s : State) : State := { s with env := { s.env with moves := ms } }

/-- The ring holding 0x0141, 0x0142, 0x0143 (P2 after step 3): full at N = 4. -/
def fullRing (s : State) : State :=
  { s with buf := [(0, 0x0141#16), (1, 0x0142#16), (2, 0x0143#16)], wp := 3#16, rp := 0#16 }

/-- The ring holding the one record 0x6141. -/
def oneRecord (s : State) : State := { s with buf := [(0, 0x6141#16)], wp := 1#16, rp := 0#16 }

/-- The next state of a result. -/
def after (r : Result) : Option State :=
  match r with
  | .next t => some t
  | .fault _ => none
  | .refused _ => none

/-- RSP, RSP_V0 and RSP_V1 after a step that finishes the command. -/
def answer (r : Result) : Option (Word × Word × Word) :=
  (after r).bind fun t => if t.busy || t.step ≠ .idle then none else some (t.rsp, t.rspV0, t.rspV1)

/-! ## WellFormed -/

theorem test_params_of_R6 : smallParams.wellFormed = true := by decide
theorem test_params_too_few_slots : { smallParams with ringSlots := 1 }.wellFormed = false := by decide
theorem test_params_too_many_slots : { smallParams with ringSlots := 65537 }.wellFormed = false := by decide
theorem test_params_no_ticks : { smallParams with ticksPerMs := 0 }.wellFormed = false := by decide
theorem test_params_too_many_ticks : { smallParams with ticksPerMs := 4294967296 }.wellFormed = false := by decide
theorem test_params_base_unaligned : { smallParams with hostBase := 0x1002 }.wellFormed = false := by decide

/-- One ill-formed word for each check: OP 0, E, F (V-EN-01, R76), Z0, Z1, T, B0, B1 (R75). -/
theorem test_words_ill_formed :
    [0x00000000#32, 0x0000000E#32, 0x0000000F#32, 0x00000012#32, 0x0000020B#32, 0x00000102#32, 0x00010002#32,
      0x01410009#32].map Word.wellFormed = List.replicate 8 false := by decide

theorem test_words_well_formed :
    [0x61410001#32, 0x00410009#32, 0x0000010B#32, 0x0000000D#32].map Word.wellFormed = List.replicate 4 true := by
  decide

/-- R59: another width, an address not a multiple of 4, an address below or above the window. -/
theorem test_host_access_ill_formed :
    hostAccessWellFormed smallParams 0x1000 2 = false ∧ hostAccessWellFormed smallParams 0x1002 4 = false
    ∧ hostAccessWellFormed smallParams 0x0FFC 4 = false ∧ hostAccessWellFormed smallParams 0x1020 4 = false
    ∧ hostAccessWellFormed smallParams 0x1000 4 = true ∧ hostAccessWellFormed smallParams 0x101C 4 = true := by
  decide

/-! ## Decode: words written out from R70 to R72, fields B1 B0 Z1 T Z0 OP -/

theorem test_decode_push : decode 0b01100001_01000001_0000000_0_0000_0001#32 = .ok (.push 0x61#8 0x41#8) := by decide
theorem test_decode_pop : decode 0b00000000_00000000_0000000_0_0000_0010#32 = .ok .pop := by decide
theorem test_decode_nearlyFull : decode 0b00000000_00000000_0000000_0_0000_0011#32 = .ok .nearlyFull := by decide
theorem test_decode_below : decode 0b00000000_00000000_0000000_0_0000_0100#32 = .ok .below := by decide
theorem test_decode_now : decode 0b00000000_00000000_0000000_0_0000_0101#32 = .ok .now := by decide
theorem test_decode_deadlineAfter : decode 0b00000000_00000000_0000000_0_0000_0110#32 = .ok .deadlineAfter := by decide
theorem test_decode_reached : decode 0b00000000_00000000_0000000_0_0000_0111#32 = .ok .reached := by decide
theorem test_decode_poll : decode 0b00000000_00000000_0000000_0_0000_1000#32 = .ok .poll := by decide
theorem test_decode_writeByte : decode 0b00000000_01010101_0000000_0_0000_1001#32 = .ok (.writeByte 0x55#8) := by decide
theorem test_decode_readNb : decode 0b00000000_00000000_0000000_0_0000_1010#32 = .ok .readNb := by decide
theorem test_decode_readTo : decode 0b00000000_00000000_0000000_1_0000_1011#32 = .ok (.readTo true) := by decide
theorem test_decode_readForever : decode 0b00000000_00000000_0000000_0_0000_1011#32 = .ok (.readTo false) := by decide
theorem test_decode_sleepMs : decode 0b00000000_00000000_0000000_0_0000_1100#32 = .ok .sleepMs := by decide
theorem test_decode_sleepS : decode 0b00000000_00000000_0000000_0_0000_1101#32 = .ok .sleepS := by decide
theorem test_decode_table : decodeTableWord 32 0x0000010B = some (.readTo true) ∧ decodeTableWord 32 0xE = none
    ∧ decodeTableWord 8 0x0D = some .sleepS := by decide

/-! ## One step of each command -/

/-- R105's example: `PUSH 0x61, 0x41` into an empty ring of 4. -/
theorem test_push_example :
    (after (execPush 0x61#8 0x41#8 quiet)).map (fun t => (t.buf, t.wp, t.rp)) = some ([(0, 0x6141#16)], 1#16, 0#16) := by
  decide

/-- P2 step 4: a push into a full ring of 4 discards the oldest. -/
theorem test_push_full :
    (after (execPush 0x01#8 0x44#8 (fullRing quiet))).map (fun t => (t.cursors, t.full, t.buf.read 3))
      = some (0x00010000#32, true, some 0x0144#16) := by decide

/-- R106's example. -/
theorem test_pop_example : answer (execPop (oneRecord quiet)) = some (0x00016141#32, 0#32, 0#32) := by decide

/-- P2 step 7: the read cursor wraps from 3 to 0. -/
theorem test_pop_wraps :
    (after (execPop { quiet with buf := [(3, 0x0144#16)], wp := 0#16, rp := 3#16 })).map (fun t => (t.rsp, t.cursors))
      = some (0x00010144#32, 0#32) := by decide

/-- R107's example: N = 1029, 964 and then 963 unread records, threshold 64. -/
theorem test_nearlyFull_example :
    let s := { fresh { smallParams with ringSlots := 1029 } quiet.env with wp := 964#16, cArg := 64#64 }
    answer (execNearlyFull s) = some (0x00020000#32, 0#32, 0#32)
      ∧ answer (execNearlyFull { s with wp := 963#16 }) = some (0#32, 0#32, 0#32) := by decide

/-- R108's example: 31 and then 32 unread records, threshold 32. -/
theorem test_below_example :
    let s := { fresh { smallParams with ringSlots := 1029 } quiet.env with wp := 31#16, cArg := 32#64 }
    answer (execBelow s) = some (0x00020000#32, 0#32, 0#32)
      ∧ answer (execBelow { s with wp := 32#16 }) = some (0#32, 0#32, 0#32) := by decide

/-- R126's example: the first use writes CNT_CTRL. -/
theorem test_now_starts :
    (after (execNow (running .now .now1 0#64 quiet))).map (fun t => (t.env.trace, t.timerStarted, t.step))
      = some ([⟨.write, .cntCtrl, 0x204, 4, 0x80000000#32⟩], true, .now2) := by decide
theorem test_now_reads : answer (execNow (running .now .now2 0#64 quiet)) = some (0#32, 0x1234#32, 0#32) := by decide

/-- R127's example, and the clamp of V-CMP-16 (`k = 2^32` from 0x100). -/
theorem test_deadlineAfter_wraps :
    answer (execDeadlineAfter (running .deadlineAfter .da2 0x20#64 (fresh smallParams (supplying [] [] [] [0xFFFFFFF0#32]))))
      = some (0#32, 0x10#32, 0xFFFFFFF0#32) := by decide
theorem test_deadlineAfter_clamps :
    answer (execDeadlineAfter
        (running .deadlineAfter .da2 0x100000000#64 (fresh smallParams (supplying [] [] [] [0x100#32]))))
      = some (0#32, 0xFF#32, 0x100#32) := by decide

/-- R128's example: counter 0x05 and then 0x10. -/
theorem test_reached_before :
    answer (execReached (running .reached .rc2 0xFFFFFFF000000010#64 (fresh smallParams (supplying [] [] [] [0x05#32]))))
      = some (0#32, 0x05#32, 0#32) := by decide
theorem test_reached_at :
    answer (execReached (running .reached .rc2 0xFFFFFFF000000010#64 (fresh smallParams (supplying [] [] [] [0x10#32]))))
      = some (0x00020000#32, 0x10#32, 0#32) := by decide

/-- V-CMP-05, -06, -08, -10, -12, -14, -16, -17, -18 as (cur, start, end). -/
theorem test_comparator_vectors :
    deadlineReached 0x00000FFF#32 0x00001000#32 0x00001100#32 = true
    ∧ deadlineReached 0xFFFFFFF0#32 0xFFFFFFF0#32 0x00000010#32 = false
    ∧ deadlineReached 0x00000005#32 0xFFFFFFF0#32 0x00000010#32 = false
    ∧ deadlineReached 0x00000010#32 0xFFFFFFF0#32 0x00000010#32 = true
    ∧ deadlineReached 0xFFFFFFEF#32 0xFFFFFFF0#32 0x00000010#32 = true
    ∧ deadlineReached 0x00000055#32 0x00000055#32 0x00000055#32 = true
    ∧ deadlineReached 0x000000FF#32 0x00000100#32 0x000000FF#32 = true
    ∧ deadlineReached 0x000000FE#32 0x00000100#32 0x000000FF#32 = false
    ∧ deadlineReached 0x00000100#32 0x00000100#32 0x000000FF#32 = false := by decide

/-- V-PL-01: one LSR read with DR = 0. -/
theorem test_poll_nothing : answer (execPoll (running .poll .poll1 0#64 quiet)) = some (0x00006000#32, 0#32, 0#32) := by
  decide

/-- V-PL-05: the drain overwrites the oldest record of a full ring of 4. -/
theorem test_poll_overwrites :
    (after (execPoll { running .poll .poll2 0#64 (fullRing (fresh smallParams (supplying [] [0x44#8] [] []))) with
        tLsr := 0x61#8, fcEn := false })).map (fun t => (t.buf.read 3, t.rp, t.wp, t.step))
      = some (some 0x6144#16, 1#16, 0#16, .poll1) := by decide

/-- V-PL-09: only bit 1 of MCR changes. -/
theorem test_drain_deasserts_rts :
    (after (execPoll { running .poll .poll4 0#64 quiet with tMcr := 0xF3#8 })).map
        (fun t => (t.env.mcr, t.rtsShadow, t.step)) = some (0xF1#8, false, .poll1) := by decide

/-- V-WB-02: THRE = 0 polls again. -/
theorem test_writeByte_waits :
    (after (execWriteByte 0x41#8 (running (.writeByte 0x41#8) .wb1 0#64 (fresh smallParams (supplying [0x00#8] [] [] []))))).map
        (fun t => t.step) = some .wb1 := by decide

/-- V-WB-05: MSR 0xEF has CTS = 0. -/
theorem test_writeByte_cts :
    (after (execWriteByte 0x41#8 (running (.writeByte 0x41#8) .wb5 0#64 (fresh smallParams (supplying [] [] [0xEF#8] []))))).map
        (fun t => t.step) = some .wb1 := by decide

/-- V-RN-03: the record is popped and returned (flow control off). -/
theorem test_readNb_returns :
    answer (execReadNb { running .readNb .rn5 0#64 (oneRecord quiet) with fcEn := false })
      = some (0x00016141#32, 0#32, 0#32) := by decide

/-- V-RN-06: MCR 0xF0 becomes 0xF2. -/
theorem test_readNb_raises_rts :
    (after (execReadNb { running .readNb .rn7 0#64 quiet with tMcr := 0xF0#8 })).map
        (fun t => (t.env.mcr, t.rtsShadow, t.rsp, t.busy)) = some (0xF2#8, true, 0#32, false) := by decide

/-- V-RT-04: 4294 seconds at 1000 ticks a millisecond. -/
theorem test_readTo_ticks :
    (after (execReadTo true (running (.readTo true) .rt1 4294#64 quiet))).map (fun t => t.tTicks) = some 4294000000 := by
  decide

/-- V-RT-05: 4_295_000_000 ticks from 0x2000 are clamped. -/
theorem test_readTo_clamps :
    (after (execReadTo true { running (.readTo true) .rt2 0#64 (fresh smallParams (supplying [] [] [] [0x2000#32])) with
        tTicks := 4295000000 })).map (fun t => t.dlEnd) = some 0x1FFF#32 := by decide

/-- V-SL-02: the deadline of 2 ms from 0xFFFFFC00, and the sample 0xFFFFFFFF before it. -/
theorem test_sleepMs_deadline :
    (after (execSleepMs { running .sleepMs .sm2 2#64 (fresh smallParams (supplying [] [] [] [0xFFFFFC00#32])) with
        tTicks := 2000 })).map (fun t => t.dlEnd) = some 0x3D0#32 := by decide
theorem test_sleepMs_waits :
    (after (execSleepMs { running .sleepMs .sm3 2#64 (fresh smallParams (supplying [] [] [] [0xFFFFFFFF#32])) with
        dlStart := 0xFFFFFC00#32, dlEnd := 0x3D0#32 })).map (fun t => t.step) = some .sm3 := by decide

/-- V-SL-05 and V-SL-06: the tick products, not truncated. -/
theorem test_sleepS_ticks :
    (after (execSleepS (running .sleepS .ss1 5#64 quiet))).map (fun t => t.tTicks) = some 5000000
    ∧ (after (execSleepS (running .sleepS .ss1 4294968#64 (fresh { smallParams with ticksPerMs := 1 } quiet.env)))).map
        (fun t => t.tTicks) = some 4294968000 := by decide

/-- P6 step 1: an illegal word is rejected at once. -/
theorem test_reject :
    (after (step (withMoves [.host (.write 0x1000 4 0x0000000F#32)] quiet))).map (fun t => (t.rsp, t.rspV0, t.busy))
      = some (0x00040000#32, 0x0000000F#32, false) := by decide

/-- P6 step 3: a CMD write while busy is lost. -/
theorem test_cmd_lost :
    (after (step (withMoves [.host (.write 0x1000 4 0x00000002#32)] (running .sleepMs .sm3 0#64 quiet)))).map
        (fun t => (t.cmdLost, t.step)) = some (true, .sm3) := by decide

/-- V-RS-01 and V-RS-02: STAT and CURSORS after reset. -/
theorem test_reset_stat :
    (quiet.stat, quiet.cursors) = (0x12#32, 0#32)
    ∧ (fresh { smallParams with flowControl := false } quiet.env).stat = 0x10#32 := by decide

/-- What `withFetchWord` places runs on the machine's own reset state. -/
theorem test_placed_word_runs :
    (after (step (State.reset.withFetchWord 32 0x61410001))).map (fun t => (t.buf, t.wp, t.busy))
      = some ([(0, 0x6141#16)], 1#16, false) := by decide

/-! ## Witnesses: concrete states and operands that meet the hypotheses of each obligation, at the ends of their ranges -/

theorem quiet_ring : RingInv quiet := ⟨⟨by decide, by decide, by decide⟩, ⟨by decide, by decide⟩, by unfold WrittenInv; decide⟩
theorem oneRecord_ring : RingInv (oneRecord quiet) :=
  ⟨⟨by decide, by decide, by decide⟩, ⟨by decide, by decide⟩, by unfold WrittenInv; decide⟩
theorem fullRing_ring : RingInv (fullRing quiet) :=
  ⟨⟨by decide, by decide, by decide⟩, ⟨by decide, by decide⟩, by unfold WrittenInv; decide⟩

/-- The same ring under HOLD_WRITE. -/
def holding (s : State) : State := { s with params := { s.params with overwriteMode := .holdWrite } }

theorem holding_ring : RingInv (holding (fullRing quiet)) :=
  ⟨⟨by decide, by decide, by decide⟩, ⟨by decide, by decide⟩, by unfold WrittenInv; decide⟩

/-- A running command whose word is latched meets the control invariant. -/
theorem controlInv_of_running {s : State} {i : Instr} (hb : s.busy = true) (hs : s.step ≠ .idle)
    (hr : s.running = some i) (hd : decode s.latchedWord = .ok i) : ControlInv s := by
  refine ⟨by simp [hb, hs], fun j hj => ?_⟩
  rw [hr] at hj; cases hj; exact hd

/-- POLL about to write MCR. -/
def pollRts : State := { running .poll .poll4 0#64 quiet with tMcr := 0x01#8 }
/-- WRITE_BYTE about to write DATA. -/
def transmitting : State :=
  { running (.writeByte 0x55#8) .wb6 0#64 quiet with tLsr := 0x20#8, tMsr := 0x10#8 }
/-- POLL about to read DATA. -/
def receiving : State := { running .poll .poll2 0#64 (fullRing quiet) with tLsr := 0x61#8 }
/-- NOW about to start the counter. -/
def starting : State := running .now .now1 0#64 quiet
/-- SLEEP_MS waiting from 0x1233 for 1 tick, the counter started. -/
def sleeping : State :=
  { running .sleepMs .sm3 0#64 quiet with timerStarted := true, dlStart := 0x1233#32, dlEnd := 0x1234#32 }
/-- READ_NB about to pop. -/
def popping : State := running .readNb .rn5 0#64 (oneRecord quiet)

theorem witness_EncodeOfDecodeIsTheWord : decode 0x61410001#32 = .ok (.push 0x61#8 0x41#8) := by decide

theorem witness_StepRunsTheLatchedCommand :
    pollRts.nextMove = .controller ∧ ControlInv pollRts ∧ pollRts.step ≠ .idle
    ∧ decode pollRts.latchedWord = .ok .poll ∧ pollRts.running = some .poll :=
  ⟨rfl, controlInv_of_running rfl (by decide) rfl (by decide), by decide, by decide, rfl⟩
theorem witness_StepRunsTheLatchedCommand_idle : quiet.nextMove = .controller ∧ quiet.step = .idle := by decide

theorem witness_PlacedWordRunsNext : decode 0x0000000D#32 = .ok .sleepS := by decide

theorem witness_CmdWriteIsAcceptedRejectedOrLost :
    smallParams.hostBase % 4 = 0
    ∧ (withMoves [.host (.write 0x1000 4 0x00000002#32)] quiet).nextMove = .host (.write smallParams.hostBase 4 0x2#32)
    ∧ (withMoves [.host (.write 0x1000 4 0x00000002#32)] quiet).busy = false ∧ decode 0x2#32 = .ok .pop
    ∧ decode 0xF#32 = .error .reservedOpcode
    ∧ (withMoves [.host (.write 0x1000 4 0x00000002#32)] sleeping).busy = true := by decide

theorem witness_OperandRegistersArePlain :
    smallParams.hostBase % 4 = 0
    ∧ (withMoves [.host (.write 0x1004 4 7#32)] quiet).nextMove = .host (.write (smallParams.hostBase + 0x04) 4 7#32)
    ∧ (withMoves [.host (.write 0x1008 4 7#32)] quiet).nextMove = .host (.write (smallParams.hostBase + 0x08) 4 7#32)
    ∧ quiet.busy = false ∧ decode 0x7#32 = .ok .reached := by decide

theorem witness_HostReadsHaveNoSideEffect :
    smallParams.hostBase % 4 = 0
    ∧ (withMoves [.host (.read 0x1000 4)] quiet).nextMove = .host (.read (smallParams.hostBase + 0x00) 4)
    ∧ (withMoves [.host (.read 0x101C 4)] quiet).nextMove = .host (.read (smallParams.hostBase + 0x1C) 4) := by decide

theorem witness_StatReadsItsFields : 2 ≤ quiet.params.ringSlots := by decide

/-- Each clause at the ends of its range: the first and the last register, a narrow access, an unaligned one, one below
and one above the window. -/
theorem witness_HostAccessOutsideTheContractIsRefused :
    smallParams.hostBase % 4 = 0
    ∧ (withMoves [.host (.read 0x101C 4)] quiet).nextMove = .host (.read 0x101C 4)
    ∧ hostAccessWellFormed smallParams 0x1000 4 = true ∧ hostAccessWellFormed smallParams 0x101C 4 = true
    ∧ (2 : Nat) ≠ 4 ∧ 0x101D % 4 ≠ 0 ∧ (0x0FFC % 4 = 0 ∧ 0x0FFC < smallParams.hostBase)
    ∧ (0x1020 % 4 = 0 ∧ smallParams.hostBase + 0x1C < 0x1020) := by decide

theorem witness_ReadOnlyRegistersIgnoreWrites :
    smallParams.hostBase % 4 = 0
    ∧ (withMoves [.host (.write 0x100C 4 7#32)] quiet).nextMove = .host (.write (smallParams.hostBase + 0x0C) 4 7#32)
    ∧ (withMoves [.host (.write 0x101C 4 7#32)] quiet).nextMove = .host (.write (smallParams.hostBase + 0x1C) 4 7#32) := by
  decide

theorem witness_ResetPutsEveryRegisterToItsValue :
    (withMoves [.reset] sleeping).nextMove = .reset ∧ 2 ≤ sleeping.params.ringSlots ∧ decode 0x2#32 = .ok .pop := by
  decide

theorem witness_ReadNbOnEmptyBufferRaisesRts :
    let s := running .readNb .rn1 0#64 quiet
    s.step = .rn1 ∧ s.env.moves = [] ∧ s.fcEn = true ∧ s.wp = s.rp ∧ 1 ≤ s.params.resumeLevel
    ∧ s.env.lsrIn = 0x60#8 :: [] ∧ (0x60#8 : Byte).getLsbD 0 = false := by decide

theorem witness_EveryStepKeepsTheRingInvariant : RingInv receiving ∧ ∃ t, step receiving = .next t :=
  ⟨fullRing_ring, _, rfl⟩
theorem witness_EveryStepKeepsTheControlInvariant : ControlInv pollRts ∧ ∃ t, step pollRts = .next t :=
  ⟨controlInv_of_running rfl (by decide) rfl (by decide), _, rfl⟩
theorem witness_EveryStepKeepsTheFlowInvariant : FlowInv pollRts ∧ ∃ t, step pollRts = .next t :=
  ⟨⟨rfl, by decide⟩, _, rfl⟩

/-- With flow control off and a transaction made. -/
theorem witness_WithoutFlowControlNoModemAccess :
    let s := running .poll .poll1 0#64 (fresh { smallParams with flowControl := false } quiet.env)
    FlowInv s ∧ s.fcEn = false ∧ ∃ t tx, step s = .next t ∧ BusSaw [tx] s t :=
  ⟨⟨rfl, by decide⟩, rfl, _, _, rfl, rfl⟩

theorem witness_EveryStepKeepsTheTimerInvariant :
    ControlInv sleeping ∧ TimerInv sleeping ∧ ∃ t, step sleeping = .next t :=
  ⟨controlInv_of_running rfl (by decide) rfl (by decide), ⟨by decide, by decide, by decide⟩, _, rfl⟩

/-- The start, a read with the counter started, and a reset. -/
theorem witness_CounterIsStartedOncePerReset :
    (∃ t, step starting = .next t ∧ starting.timerStarted = false ∧ t.timerStarted = true)
    ∧ (TimerInv sleeping ∧ sleeping.nextMove ≠ .reset ∧ ∃ t tx, step sleeping = .next t ∧ BusSaw [tx] sleeping t
        ∧ tx.reg = .cntVal)
    ∧ ∃ t, step (withMoves [.reset] sleeping) = .next t :=
  ⟨⟨_, rfl, rfl, rfl⟩, ⟨⟨by decide, by decide, by decide⟩, by decide, _, _, rfl, rfl, rfl⟩, _, rfl⟩

theorem witness_EveryStepKeepsTheUartInvariant : UartInv transmitting ∧ ∃ t, step transmitting = .next t :=
  ⟨⟨by decide, by decide, by decide⟩, _, rfl⟩

/-- A read and a write of DATA. -/
theorem witness_DataIsAccessedOnlyWhenReady :
    (UartInv receiving ∧ ∃ t tx, step receiving = .next t ∧ BusSaw [tx] receiving t ∧ tx.reg = .data ∧ tx.dir = .read)
    ∧ (UartInv transmitting ∧ transmitting.fcEn = true
        ∧ ∃ t tx, step transmitting = .next t ∧ BusSaw [tx] transmitting t ∧ tx.reg = .data ∧ tx.dir = .write) :=
  ⟨⟨⟨by decide, by decide, by decide⟩, _, _, rfl, rfl, rfl, rfl⟩,
    ⟨by decide, by decide, by decide⟩, by decide, _, _, rfl, rfl, rfl, rfl⟩

theorem witness_EveryStepKeepsTheMcrInvariant : McrInv pollRts ∧ ∃ t, step pollRts = .next t :=
  ⟨fun _ => rfl, _, rfl⟩

/-- MCR 0x03 becomes 0x01. -/
theorem witness_OnlyTheRtsBitOfMcrChanges :
    let s : State := { pollRts with tMcr := 0x03#8, env := { pollRts.env with mcr := 0x03#8 } }
    McrInv s ∧ ∃ t, step s = .next t ∧ t.env.mcr ≠ s.env.mcr :=
  ⟨fun _ => rfl, _, rfl, by decide⟩

theorem witness_RtsShadowIsTheLastRtsWritten :
    (∃ t tx, step pollRts = .next t ∧ BusSaw [tx] pollRts t ∧ tx.dir = .write ∧ tx.reg = .mcr)
    ∧ ∃ t, step quiet = .next t ∧ BusSaw [] quiet t :=
  ⟨⟨_, _, rfl, rfl, rfl, rfl⟩, _, rfl, rfl⟩

theorem witness_EveryStepKeepsRspReservedBitsZero : RspInv pollRts ∧ ∃ t, step pollRts = .next t :=
  ⟨by unfold RspInv; decide, _, rfl⟩

theorem witness_OneTransactionAMicroStep : ∃ t tx, step receiving = .next t ∧ BusSaw [tx] receiving t :=
  ⟨_, _, rfl, rfl⟩

theorem witness_ResponseChangesOnlyAtFinishOrRejection :
    (∃ t, step transmitting = .next t) ∧ ∃ t, step (withMoves [.host (.write 0x1000 4 0xF#32)] quiet) = .next t :=
  ⟨⟨_, rfl⟩, _, rfl⟩

theorem witness_RunningCommandIgnoresTheOperandRegisters :
    sleeping.busy = true ∧ sleeping.nextMove ≠ .reset ∧ sleeping.nextMove = .controller
    ∧ ∃ t, step sleeping = .next t :=
  ⟨rfl, by decide, rfl, _, rfl⟩

theorem witness_OnlyThePushedSlotChanges :
    (∃ t, exec .poll receiving = .next t) ∧ ∃ t, exec .pop (oneRecord quiet) = .next t :=
  ⟨⟨_, rfl⟩, _, rfl⟩

theorem witness_EachRegisterChangesOnlyAtItsLabels :
    receiving.running = some .poll ∧ ∃ t, exec .poll receiving = .next t :=
  ⟨rfl, _, rfl⟩

theorem witness_PushAppendsAndDropsTheOldest :
    RingInv (fullRing quiet) ∧ (fullRing quiet).params.overwriteMode = .dropOldest ∧ (fullRing quiet).full = true
    ∧ RingInv quiet ∧ quiet.full = false :=
  ⟨fullRing_ring, rfl, by decide, quiet_ring, by decide⟩

theorem witness_PushUnderHoldWriteKeepsTheOldest :
    RingInv (holding (fullRing quiet)) ∧ (holding (fullRing quiet)).params.overwriteMode = .holdWrite :=
  ⟨holding_ring, rfl⟩

theorem witness_PopReturnsTheOldest :
    RingInv (oneRecord quiet) ∧ (oneRecord quiet).wp ≠ (oneRecord quiet).rp ∧ RingInv quiet ∧ quiet.wp = quiet.rp :=
  ⟨oneRecord_ring, by decide, quiet_ring, rfl⟩

/-- Thresholds 0, N - 1 and N. -/
theorem witness_NearlyFullComparesFreeSlots :
    RingInv (fullRing quiet) ∧ ((0#64 : DWord).extractLsb' 0 32).toNat = 0
    ∧ (fullRing quiet).params.ringSlots - 1 ≤ ((3#64 : DWord).extractLsb' 0 32).toNat :=
  ⟨fullRing_ring, by decide, by decide⟩
theorem witness_BelowComparesUnreadRecords :
    RingInv (fullRing quiet) ∧ ((0#64 : DWord).extractLsb' 0 32).toNat = 0
    ∧ (fullRing quiet).params.ringSlots ≤ ((4#64 : DWord).extractLsb' 0 32).toNat :=
  ⟨fullRing_ring, by decide, by decide⟩

theorem witness_RingCommandsActAsABoundedQueue : RingInv (fullRing quiet) := fullRing_ring

/-- N - 1 pushes, the smallest number allowed. -/
theorem witness_OverflowKeepsTheNewestRecords :
    RingInv quiet ∧ quiet.params.overwriteMode = .dropOldest ∧ quiet.wp = quiet.rp
    ∧ quiet.params.ringSlots - 1 ≤ [(1#8, 0x41#8), (1#8, 0x42#8), (1#8, 0x43#8)].length :=
  ⟨quiet_ring, rfl, rfl, by decide⟩

/-- The parameters of R6, N = 1029. -/
theorem witness_NearlyFullBeginsAtTheStopWatermark :
    let s := fresh { smallParams with ringSlots := 1029, stopFree := 64 } quiet.env
    RingInv s ∧ s.wp = s.rp ∧ s.params.ringSlots = 1029 :=
  ⟨⟨⟨by decide, by decide, by decide⟩, ⟨by decide, by decide⟩, by unfold WrittenInv; decide⟩, rfl, rfl⟩

theorem witness_timer_labels :
    starting.step ≠ .now2 ∧ (running .now .now2 0#64 quiet).step = .now2 ∧ starting.step ≠ .da2
    ∧ (running .deadlineAfter .da2 0#64 quiet).step = .da2 ∧ starting.step ≠ .rc2
    ∧ (running .reached .rc2 0#64 quiet).step = .rc2 := by decide

/-- DEADLINE_AFTER's two ranges of `k` meet at 2^32 - 1. -/
theorem witness_DeadlineAfterFormsTheDeadline :
    (0xFFFFFFFF#64 : DWord).toNat ≤ 0xFFFFFFFF ∧ 0xFFFFFFFF < (0x100000000#64 : DWord).toNat := by decide

theorem witness_ComparatorByCases :
    (0x10#32 : Word).toNat < (0xFFFFFFF0#32 : Word).toNat ∧ (0x55#32 : Word).toNat ≤ (0x55#32 : Word).toNat := by decide
theorem witness_ClampedDeadlineIsTheLongest : 0xFFFFFFFF ≤ 0xFFFFFFFF ∧ 2 ^ 32 ≤ 4294967296 := by decide

/-- Each label of POLL's drain, with DR = 1 for the first. -/
theorem witness_DrainMicroSteps :
    let s := running .poll .poll1 0#64 (fresh smallParams (supplying [0x61#8] [] [] []))
    s.step = .poll1 ∧ s.nextLsr.getLsbD 0 = true ∧ receiving.step = .poll2
    ∧ (running .poll .poll3 0#64 quiet).step = .poll3 ∧ pollRts.step = .poll4 := by decide

/-- `quiet` with a byte waiting, and with flow control off. -/
def waiting : State := fresh smallParams (supplying [0x61#8] [] [] [])
def noFlow : State := fresh { smallParams with flowControl := false } quiet.env

/-- The same four labels in WRITE_BYTE, READ_NB and READ_TO, whose first micro-step reads DR = 1. -/
theorem witness_DrainMicroSteps_embedded :
    waiting.nextLsr.getLsbD 0 = true
    ∧ [Label.wb1, .wb2, .wb3, .wb4].map (fun l => (running (.writeByte 0x55#8) l 0#64 waiting).step)
        = [.wb1, .wb2, .wb3, .wb4]
    ∧ [Label.rn1, .rn2, .rn3, .rn4].map (fun l => (running .readNb l 0#64 waiting).step) = [.rn1, .rn2, .rn3, .rn4]
    ∧ [Label.rt3, .rt4, .rt5, .rt6].map (fun l => (running (.readTo true) l 0#64 waiting).step)
        = [.rt3, .rt4, .rt5, .rt6] := by decide

theorem witness_PollAnswersTheLastLineStatus :
    let s := running .poll .poll1 0#64 quiet
    s.step = .poll1 ∧ s.nextLsr.getLsbD 0 = false := by decide

theorem witness_WriteByteIsGatedAndThenWrites :
    let s := running (.writeByte 0x55#8) .wb1 0#64 quiet
    s.step = .wb1 ∧ s.nextLsr.getLsbD 0 = false ∧ (running (.writeByte 0x55#8) .wb5 0#64 quiet).step = .wb5
    ∧ transmitting.step = .wb6 := by decide

/-- READ_NB's labels, with the record popped and flow control on and off. -/
theorem witness_ReadNbPopsAndResumes :
    RingInv popping ∧ popping.step = .rn5 ∧ popping.fcEn = true
    ∧ popping.unread.tail.length < popping.params.resumeLevel
    ∧ (running .readNb .rn1 0#64 quiet).nextLsr.getLsbD 0 = false :=
  ⟨oneRecord_ring, rfl, rfl, by decide, by decide⟩

/-- READ_NB at RN.5 with flow control off, and at RN.6 and RN.7 with a record and with None in `t_res`. -/
theorem witness_ReadNbPopsAndResumes_resume :
    RingInv (running .readNb .rn5 0#64 noFlow) ∧ (running .readNb .rn5 0#64 noFlow).fcEn = false
    ∧ RingInv (running .readNb .rn6 0#64 quiet) ∧ (running .readNb .rn6 0#64 quiet).step = .rn6
    ∧ RingInv { running .readNb .rn7 0#64 quiet with tRes := some 0x6141#16 }
    ∧ (running .readNb .rn7 0#64 quiet).step = .rn7 ∧ (running .readNb .rn7 0#64 quiet).tRes = none :=
  ⟨⟨⟨by decide, by decide, by decide⟩, ⟨by decide, by decide⟩, by unfold WrittenInv; decide⟩, rfl, quiet_ring, rfl,
    quiet_ring, rfl, rfl⟩

theorem witness_ReadToReadsFirstThenChecksTheDeadline :
    RingInv (running (.readTo true) .rt7 0#64 (oneRecord quiet)) ∧ RingInv (running (.readTo true) .rt7 0#64 quiet)
    ∧ (running (.readTo true) .rt3 0#64 quiet).nextLsr.getLsbD 0 = false
    ∧ deadlineReached 0x1234#32 0x1233#32 0x1234#32 = true ∧ deadlineReached 0x1233#32 0x1233#32 0x1234#32 = false :=
  ⟨oneRecord_ring, quiet_ring, by decide, by decide, by decide⟩

/-- READ_TO at RT.1 (both values of T, the counter stopped and started), RT.2, RT.8, RT.9 (a record and None in `t_res`)
and RT.10 (the deadline reached and not). -/
theorem witness_ReadToReadsFirstThenChecksTheDeadline_labels :
    (∀ b, RingInv (running (.readTo b) .rt1 5#64 quiet) ∧ (running (.readTo b) .rt1 5#64 quiet).step = .rt1
      ∧ (running (.readTo b) .rt1 5#64 quiet).timerStarted = false
      ∧ RingInv { running (.readTo b) .rt1 5#64 quiet with timerStarted := true })
    ∧ RingInv (running (.readTo true) .rt2 5#64 quiet) ∧ (running (.readTo true) .rt2 5#64 quiet).step = .rt2
    ∧ (∀ b, RingInv (running (.readTo b) .rt8 0#64 quiet) ∧ (running (.readTo b) .rt8 0#64 quiet).step = .rt8
      ∧ RingInv { running (.readTo b) .rt9 0#64 quiet with tRes := some 0x6141#16 }
      ∧ (running (.readTo b) .rt9 0#64 quiet).step = .rt9 ∧ (running (.readTo b) .rt9 0#64 quiet).tRes = none)
    ∧ RingInv (running (.readTo true) .rt10 0#64 quiet) ∧ (running (.readTo true) .rt10 0#64 quiet).step = .rt10
    ∧ deadlineReached (running (.readTo true) .rt10 0#64 quiet).nextCnt 0x1234#32 0x1235#32 = false
    ∧ deadlineReached (running (.readTo true) .rt10 0#64 quiet).nextCnt 0x1233#32 0x1234#32 = true :=
  ⟨fun _ => ⟨quiet_ring, rfl, rfl, quiet_ring⟩, quiet_ring, rfl, fun _ => ⟨quiet_ring, rfl, quiet_ring, rfl, rfl⟩,
    quiet_ring, rfl, by decide, by decide⟩

theorem witness_SleepWaitsForItsDeadline :
    (running .sleepMs .sm1 2#64 quiet).step = .sm1 ∧ (running .sleepS .ss2 2#64 quiet).step = .ss2
    ∧ sleeping.step = .sm3 ∧ deadlineReached sleeping.nextCnt sleeping.dlStart sleeping.dlEnd = true := by decide

theorem witness_DelaysNeverTouchTheUart : ∃ t, exec .sleepMs sleeping = .next t := ⟨_, rfl⟩

/-- Two bytes waiting in a full ring, then DR = 0. -/
theorem witness_PollDrainsEveryWaitingByte :
    let s := running .poll .poll1 0#64
      (fullRing (fresh { smallParams with flowControl := false } (supplying [0x61#8, 0x63#8, 0x60#8] [0x44#8, 0x45#8] [] [])))
    RingInv s ∧ s.params.overwriteMode = .dropOldest ∧ s.step = .poll1 ∧ s.env.moves = [] ∧ s.fcEn = false
    ∧ s.env.lsrIn = [0x61#8, 0x63#8] ++ 0x60#8 :: [] ∧ s.env.dataIn = [0x44#8, 0x45#8] ++ []
    ∧ (∀ x ∈ [(0x61#8 : Byte), 0x63#8], x.getLsbD 0 = true) ∧ (0x60#8 : Byte).getLsbD 0 = false :=
  ⟨⟨⟨by decide, by decide, by decide⟩, ⟨by decide, by decide⟩, by unfold WrittenInv; decide⟩, rfl, rfl, rfl, rfl, rfl, rfl,
    by decide, by decide⟩

/-- Two bytes waiting in an empty ring of 4: the second push reaches the stop watermark of 1 free slot. -/
theorem witness_PollWithFlowControlDeassertsRts :
    let s := running .poll .poll1 0#64 (fresh smallParams (supplying [0x61#8, 0x63#8, 0x60#8] [0x44#8, 0x45#8] [] []))
    RingInv s ∧ s.step = .poll1 ∧ s.env.moves = [] ∧ s.fcEn = true
    ∧ s.env.lsrIn = [0x61#8, 0x63#8] ++ 0x60#8 :: [] ∧ s.env.dataIn = [0x44#8, 0x45#8] ++ []
    ∧ (∀ x ∈ [(0x61#8 : Byte), 0x63#8], x.getLsbD 0 = true) ∧ (0x60#8 : Byte).getLsbD 0 = false :=
  ⟨⟨⟨by decide, by decide, by decide⟩, ⟨by decide, by decide⟩, by unfold WrittenInv; decide⟩, rfl, rfl, rfl, rfl, rfl,
    by decide, by decide⟩

theorem witness_PollEndsUnderUartQuiesces :
    let s := running .poll .poll1 0#64 (fresh smallParams (supplying [0x61#8, 0x60#8] [0x44#8] [] []))
    s.step = .poll1 ∧ s.env.moves = [] ∧ UartQuiescesAfter 1 s.env.lsrIn ∧ 1 < s.env.lsrIn.length :=
  ⟨rfl, rfl, by unfold UartQuiescesAfter; decide, by decide⟩

/-- A duration of 2 ticks sampled every tick. -/
theorem witness_SleepEndsUnderCounterRuns :
    let s : State := { running .sleepMs .sm3 0#64 (fresh smallParams (supplying [] [] [] [0x10#32, 0x11#32, 0x12#32])) with
      dlStart := 0x10#32, dlEnd := 0x12#32 }
    s.step = .sm3 ∧ s.env.moves = [] ∧ CounterRuns 1 s.env.cntIn ∧ 1 ≤ 2 ^ 32 - (s.dlEnd - s.dlStart).toNat
    ∧ (s.dlEnd - s.dlStart).toNat < s.env.cntIn.length :=
  ⟨rfl, rfl, ⟨by decide, by decide, by decide, by decide, trivial⟩, by decide, by decide⟩

/-- V-RT-07's start. -/
theorem witness_ReadToZeroFinishesAfterOneAttempt :
    let s := running (.readTo true) .rt1 0#64 (fresh smallParams (supplying [0x60#8] [] [] [0x100#32, 0x101#32]))
    s.step = .rt1 ∧ s.cT = true ∧ s.cArg.extractLsb' 0 32 = 0#32 ∧ s.env.moves = [] ∧ s.wp = s.rp
    ∧ s.env.cntIn = 0x100#32 :: 0x101#32 :: [] ∧ s.env.lsrIn = 0x60#8 :: [] ∧ (0x60#8 : Byte).getLsbD 0 = false := by
  decide

theorem witness_IssuingACommandStartsItWithItsOperands :
    let s := withMoves ((Asm.reached 0x10#32 0xFFFFFFF0#32).issue smallParams ++ [.controller]) quiet
    s.params.hostBase % 4 = 0 ∧ s.busy = false
    ∧ s.env.moves = (Asm.reached 0x10#32 0xFFFFFFF0#32).issue s.params ++ [.controller] := by decide

end Sys2Proof.Tests
end

/-! Which command a controller's step runs, and the one bus transaction that a step can make. -/

namespace Sys2Proof.Machine

/-! ## The controller's step -/

/-- Only IDLE is no command's label (R30). -/
theorem running_eq_none_iff {s : State} : s.running = none ↔ s.step = .idle := by
  cases hs : s.step <;> simp [State.running, hs]

/-- The controller's step runs the command that the label names. -/
theorem step_of_controller_running {s : State} {i : Instr} (hm : s.nextMove = .controller) (hr : s.running = some i) :
    step s = exec i s.afterMove := by
  have hr' : s.afterMove.running = some i := hr
  simp only [step, hm, takeMove, controllerStep, hr']

/-- At IDLE the controller only waits (log 10). -/
theorem step_of_controller_idle {s : State} (hm : s.nextMove = .controller) (hs : s.step = .idle) :
    step s = .next s.afterMove := by
  have hr : s.afterMove.running = none := running_eq_none_iff.2 hs
  simp only [step, hm, takeMove, controllerStep, hr]

/-- Under the control invariant the command that the label names is the one whose word is latched (R31). -/
theorem running_of_latched {s : State} {i : Instr} (hc : ControlInv s) (hs : s.step ≠ .idle)
    (hd : decode s.latchedWord = .ok i) : s.running = some i := by
  obtain ⟨-, hlatch⟩ := hc
  cases hr : s.running with
  | none => exact absurd (running_eq_none_iff.1 hr) hs
  | some j =>
    have hj : Except.ok j = Except.ok i := (hlatch j hr).symm.trans hd
    rw [Except.ok.inj hj]

/-- Settles O5: the latched word's command is the one the label names, and that one the controller runs. -/
theorem stepRunsTheLatchedCommand : Obligations.StepRunsTheLatchedCommand := by
  intro s hm
  refine ⟨fun hc i hs hd => ?_, fun i hr => ?_, fun hs => ?_⟩
  · exact step_of_controller_running hm (running_of_latched hc hs hd)
  · exact step_of_controller_running hm hr
  · exact step_of_controller_idle hm hs

/-! ## Bus transactions -/

theorem busSaw_nil_iff {s t : State} : BusSaw [] s t ↔ t.env.trace = s.env.trace := by
  rw [BusSaw, List.append_nil]

/-- The transactions that R51 allows on the external bus: the direction, the register and the value moved. -/
inductive BusAllowed : BusDir → ExtReg → Word → Prop where
  | readLsr (b : Byte) : BusAllowed .read .lsr (b.setWidth 32)
  | readMsr (b : Byte) : BusAllowed .read .msr (b.setWidth 32)
  | data (d : BusDir) (b : Byte) : BusAllowed d .data (b.setWidth 32)
  | mcr (d : BusDir) (b : Byte) : BusAllowed d .mcr (b.setWidth 32)
  | readCntVal (v : Word) : BusAllowed .read .cntVal v
  | writeCntCtrl (v : Word) : BusAllowed .write .cntCtrl v

/-- Between `s` and `t` the bus saw nothing, or one transaction that R51 allows. -/
def AtMostOneTx (s t : State) : Prop :=
  BusSaw [] s t ∨ ∃ d r v, BusAllowed d r v ∧ BusSaw [busTx s.params d r v] s t

/-- A state with the same trace and parameters may stand for the one before or the one after. -/
theorem atMostOneTx_congr {s s' t t' : State} (hs : s'.env.trace = s.env.trace) (hp : s'.params = s.params)
    (ht : t'.env.trace = t.env.trace) : AtMostOneTx s' t' ↔ AtMostOneTx s t := by
  simp only [AtMostOneTx, BusSaw, hs, hp, ht]

theorem atMostOneTx_of_trace_eq {s t : State} (h : t.env.trace = s.env.trace) : AtMostOneTx s t :=
  .inl (busSaw_nil_iff.2 h)

theorem atMostOneTx_of_traceWith {s t : State} {d : BusDir} {r : ExtReg} {v : Word} (ha : BusAllowed d r v)
    (h : t.env.trace = s.traceWith d r v) : AtMostOneTx s t :=
  .inr ⟨d, r, v, ha, h⟩

/-- The start micro-step makes at most the one write of CNT_CTRL (R121). -/
theorem startTimer_atMostOneTx (s : State) : AtMostOneTx s (startTimer s) := by
  have htrace := startTimer_trace s
  split at htrace
  · exact atMostOneTx_of_trace_eq htrace
  · exact atMostOneTx_of_traceWith (.writeCntCtrl _) htrace

/-- R10 over the label graph: each edge makes the transaction of the one bus operation in it, if there is one. -/
theorem microStep_atMostOneTx {s t : State} (h : MicroStep s t) : AtMostOneTx s t := by
  cases h with
  | push | pop | nearlyFull | below | beginForever | popResume | popDone | popRetry =>
    exact atMostOneTx_of_trace_eq (by simp)
  | start => exact (atMostOneTx_congr rfl rfl (by simp)).1 (startTimer_atMostOneTx s)
  | begin l k => exact (atMostOneTx_congr rfl rfl (by simp)).1 (startTimer_atMostOneTx (setTicks k s))
  | now | deadlineAfter | reached | deadline | waitDone | waitMore =>
    exact atMostOneTx_of_traceWith (.readCntVal s.nextCnt) (by simp)
  | drainMore | poll | gate | drained => exact atMostOneTx_of_traceWith (.readLsr s.nextLsr) (by simp)
  | drainData | drainDataStop => exact atMostOneTx_of_traceWith (.data .read s.nextData) (by simp)
  | ctsOn | ctsOff => exact atMostOneTx_of_traceWith (.readMsr s.nextMsr) (by simp)
  | transmit => exact atMostOneTx_of_traceWith (.data .write s.cB0) (by simp)
  | drainMcrRead | resumeRead => exact atMostOneTx_of_traceWith (.mcr .read s.env.mcr) (by simp)
  | drainMcrWrite => exact atMostOneTx_of_traceWith (.mcr .write (rtsByte false s.tMcr)) (by simp)
  | resumeDone | resumeRetry => exact atMostOneTx_of_traceWith (.mcr .write (rtsByte true s.tMcr)) (by simp)

/-- A host write leaves the bus trace as it was. -/
theorem hostWrite_trace (r : HostReg) (v : Word) (s : State) : (hostWrite r v s).env.trace = s.env.trace := by
  rcases hostWrite_cases r v s with ⟨-, e⟩ | ⟨-, e⟩ | ⟨-, -, e⟩ | ⟨-, -, _, -, e⟩ | ⟨-, -, _, -, e⟩ | ⟨-, -, -, e⟩ <;>
    simp [e]

/-- A step makes at most one transaction, and only the controller's move makes one (R10, R202). -/
theorem step_atMostOneTx {s t : State} (h : step s = .next t) :
    BusSaw [] s t ∨ s.nextMove = .controller ∧ AtMostOneTx s t := by
  rcases step_edges h with
    ⟨hm, hmicro | ⟨-, rfl⟩⟩ | ⟨r, ⟨-, -, -, rfl⟩ | ⟨-, v, -, -, rfl⟩⟩ | ⟨-, rfl⟩
  · exact .inr ⟨hm, (atMostOneTx_congr (by simp) (by simp) rfl).1 (microStep_atMostOneTx hmicro)⟩
  · exact .inl (busSaw_nil_iff.2 (by simp))
  · exact .inl (busSaw_nil_iff.2 (by simp))
  · exact .inl (busSaw_nil_iff.2 (by simp [hostWrite_trace]))
  · exact .inl (busSaw_nil_iff.2 rfl)

theorem byte_setWidth_toNat_lt (b : Byte) : (b.setWidth 32 : Word).toNat < 256 := by
  have := b.isLt
  rw [BitVec.toNat_setWidth]
  omega

/-- Settles O29: the one transaction of a step is one of the six forms that R51 allows. -/
theorem oneTransactionAMicroStep : Obligations.OneTransactionAMicroStep := by
  intro s t h
  rcases step_atMostOneTx h with hquiet | ⟨hm, hquiet | ⟨d, r, v, ha, hsaw⟩⟩
  · exact .inl hquiet
  · exact .inl hquiet
  · refine .inr ⟨busTx s.params d r v, hsaw, hm, ?_⟩
    cases ha <;> simp [busTx, ExtReg.bytes, ExtReg.addr, -BitVec.toNat_setWidth, byte_setWidth_toNat_lt]

end Sys2Proof.Machine

/-! What every move of one agent leaves as it was, and the invariants that every step keeps. -/

namespace Sys2Proof.Machine

/-! ## Frames of the host's write and of one micro-step -/

/-- A host write reaches no register but the operand registers, the latch and the command's control and response. -/
@[simp] theorem hostWrite_frame (r : HostReg) (v : Word) (s : State) :
    (hostWrite r v s).params = s.params ∧ (hostWrite r v s).buf = s.buf ∧ (hostWrite r v s).wp = s.wp
    ∧ (hostWrite r v s).rp = s.rp ∧ (hostWrite r v s).rtsShadow = s.rtsShadow
    ∧ (hostWrite r v s).timerStarted = s.timerStarted ∧ (hostWrite r v s).dlStart = s.dlStart
    ∧ (hostWrite r v s).dlEnd = s.dlEnd ∧ (hostWrite r v s).fcEn = s.fcEn ∧ (hostWrite r v s).tLsr = s.tLsr
    ∧ (hostWrite r v s).tData = s.tData ∧ (hostWrite r v s).tMcr = s.tMcr ∧ (hostWrite r v s).tMsr = s.tMsr
    ∧ (hostWrite r v s).tCur = s.tCur ∧ (hostWrite r v s).tRes = s.tRes ∧ (hostWrite r v s).tTicks = s.tTicks
    ∧ (hostWrite r v s).env = s.env := by
  rcases hostWrite_cases r v s with ⟨-, e⟩ | ⟨-, e⟩ | ⟨-, -, e⟩ | ⟨-, -, _, -, e⟩ | ⟨-, -, _, -, e⟩ | ⟨-, -, -, e⟩ <;>
    simp [e]

/-- No edge leaves IDLE. -/
theorem microStep_step_ne_idle {s t : State} (h : MicroStep s t) : s.step ≠ .idle := by
  intro hs
  cases h <;> simp_all [lsrEdges, dataEdges, stopEdges, mcrReadEdges, mcrWriteEdges]

theorem microStep_sameHostSide {s t : State} (h : MicroStep s t) : SameHostSide s t := by
  cases h <;> simp [SameHostSide]

theorem microStep_sameLatch {s t : State} (h : MicroStep s t) : SameLatch s t := by
  cases h <;> simp [SameLatch]

theorem microStep_params {s t : State} (h : MicroStep s t) : t.params = s.params := by
  obtain ⟨-, -, -, hp, -⟩ := microStep_sameHostSide h
  exact hp

theorem microStep_fcEn {s t : State} (h : MicroStep s t) : t.fcEn = s.fcEn := by
  obtain ⟨-, -, -, -, hf, -⟩ := microStep_sameHostSide h
  exact hf

/-- An invariant of URBC's own registers that micro-steps, host writes and reset keep is kept by every step. -/
theorem step_keeps {P : State → Prop} (henv : ∀ s e, P s → P { s with env := e })
    (hmicro : ∀ s t, P s → MicroStep s t → P t) (hwrite : ∀ r v s, P s → P (hostWrite r v s))
    (hreset : ∀ s, P s → P (applyReset s)) {s t : State} (h : P s) (hstep : step s = .next t) : P t := by
  have ha : P s.afterMove := henv s _ h
  rcases step_edges hstep with
    ⟨-, hm | ⟨-, rfl⟩⟩ | ⟨r, ⟨-, -, -, rfl⟩ | ⟨-, v, -, -, rfl⟩⟩ | ⟨-, rfl⟩
  · exact hmicro _ _ ha hm
  · exact ha
  · exact henv _ _ ha
  · exact hwrite _ _ _ ha
  · exact hreset _ ha

/-- No step writes the parameters (R41, log 6). -/
theorem step_params {s t : State} (h : step s = .next t) : t.params = s.params :=
  step_keeps (P := fun u => u.params = s.params) (fun _ _ h => h) (fun _ _ h hm => (microStep_params hm).trans h)
    (fun _ _ _ h => by simpa using h) (fun _ h => h) rfl h

/-! ## The ring -/

theorem RingInv.microStep {s t : State} (h : RingInv s) (hm : MicroStep s t) : RingInv t := by
  have hread : RingInv (readData s) := h.of_same (by simp) (by simp [SameRing])
  cases hm with
  | push => exact (h.push s.cB1 s.cB0).of_same (by simp) (by simp [SameRing])
  | drainData | drainDataStop => exact (hread.push s.tLsr s.nextData).of_same (by simp) (by simp [SameRing])
  | pop | popResume | popDone | popRetry => exact h.pop.of_same (by simp) (by simp [SameRing])
  | _ => exact h.of_same (by simp) (by simp [SameRing])

/-- After reset the ring is empty, whatever it held (R200). -/
theorem RingInv.reset {s : State} (h : RingInv s) : RingInv (applyReset s) := by
  obtain ⟨⟨hp, -, -⟩, -, -⟩ := h
  obtain ⟨hn, -⟩ := (Params.wellFormed_iff _).1 hp
  have hpos : 0 < s.params.ringSlots := by omega
  have hcur : CursorInv (applyReset s) := ⟨hp, hpos, hpos⟩
  have hcount : (applyReset s).count = 0 := hcur.count_zero_iff.2 rfl
  refine ⟨hcur, ⟨.nil, fun _ hx => nomatch hx⟩, fun k hk => ?_⟩
  omega

/-- Settles O17: a micro-step is a push, a pop or nothing to the ring, a host write never reaches it, reset empties it. -/
theorem everyStepKeepsTheRingInvariant : Obligations.EveryStepKeepsTheRingInvariant := by
  intro s t
  exact step_keeps (fun _ _ h => h) (fun _ _ h hm => h.microStep hm)
    (fun _ _ _ h => h.of_same (by simp) (by simp [SameRing])) (fun _ h => h.reset)

/-! ## The latched command -/

/-- Bits 7:4 and 15:9 of a word that matches a row are 0: every row's mask has them and its pattern has them 0 (R72). -/
theorem opcodeRow_reserved {w : Word} {r : OpcodeRow} (hr : r ∈ opcodeRows) (h : w &&& r.mask = r.pattern) {k : Nat}
    (hk : 4 ≤ k ∧ k < 8 ∨ 9 ≤ k ∧ k < 16) : w.getLsbD k = false := by
  have hrow : r.mask.getLsbD k = true ∧ r.pattern.getLsbD k = false := by
    have hlt : k < 16 := by omega
    simp only [opcodeRows, List.mem_cons, List.not_mem_nil, or_false] at hr
    rcases hr with rfl | rfl | rfl | rfl | rfl | rfl | rfl | rfl | rfl | rfl | rfl | rfl | rfl <;>
      interval_cases k <;> simp_all
  obtain ⟨hmask, hpat⟩ := hrow
  rw [← h, BitVec.getLsbD_and, hmask, Bool.and_true] at hpat
  exact hpat

/-- The latched fields of a legal word are the word again (R31, R70). -/
theorem packWord_of_decode {w : Word} {i : Instr} (h : decode w = .ok i) :
    packWord (Word.b1 w) (Word.b0 w) (Word.t w) (Word.op w) = w := by
  obtain ⟨r, hr, hm, -⟩ := decode_ok_iff.1 h
  have hz := fun k => opcodeRow_reserved hr hm (k := k)
  apply BitVec.eq_of_getLsbD_eq
  intro k hk
  rw [packWord_getLsbD _ _ _ _ _ hk]
  simp only [Word.b1, Word.b0, Word.t, Word.op, BitVec.getLsbD_extractLsb']
  grind

/-- The command that a legal word starts is the one its first label and its latched fields name (R78). -/
theorem running_of_started {w : Word} {i : Instr} (h : decode w = .ok i) (s : State) :
    State.running { latchCommand w s with busy := true, step := firstLabel i } = some i := by
  obtain ⟨r, hr, -, rfl⟩ := decode_ok_iff.1 h
  simp only [opcodeRows, List.mem_cons, List.not_mem_nil, or_false] at hr
  rcases hr with rfl | rfl | rfl | rfl | rfl | rfl | rfl | rfl | rfl | rfl | rfl | rfl | rfl <;> rfl

theorem firstLabel_ne_idle (i : Instr) : firstLabel i ≠ .idle := by
  cases i <;> simp [firstLabel]

/-- Two labels of one command (R30). -/
def SameCommand (a b : Label) : Prop :=
  ∀ s : State, State.running { s with step := a } = State.running { s with step := b }

theorem sameCommand_of_mem {edges : List (Label × Label)} {a b : Label} (he : (a, b) ∈ edges)
    (h : ∀ e ∈ edges, SameCommand e.1 e.2) : SameCommand a b :=
  h _ he

/-- The command has ended (R80). -/
def Ended (t : State) : Prop := t.step = .idle ∧ t.busy = false

/-- The command goes on: the same command runs, busy as it was, its response not yet written (R30, R80). -/
def GoesOn (s t : State) : Prop := t.running = s.running ∧ t.busy = s.busy ∧ SameResponse s t

theorem goesOn_goto {l : Label} {s u : State} (hl : SameCommand s.step l) (hlatch : SameLatch s (goto l u))
    (hbusy : u.busy = s.busy) (hrsp : SameResponse s u) : GoesOn s (goto l u) := by
  refine ⟨?_, hbusy, hrsp⟩
  obtain ⟨-, hb0, hb1, ht, -⟩ := hlatch
  have hrun : (goto l u).running = State.running { s with step := l } := by
    simp only [State.running, hb0, hb1, ht, goto_fields]
  exact hrun.trans (hl s).symm

/-- Each edge ends the command or stays among that command's labels (R30, R80). -/
theorem microStep_ended_or_goesOn {s t : State} (h : MicroStep s t) : Ended t ∨ GoesOn s t := by
  have hlatch := microStep_sameLatch h
  cases h with
  | push | pop | nearlyFull | below | now | deadlineAfter | reached | waitDone | poll | transmit | popDone | resumeDone =>
    exact .inl (by simp [Ended])
  | start l he | deadline l he | waitMore l he | drainMore l he | drainData l he | drainDataStop l he
  | drainMcrRead l he | drainMcrWrite l he | drained l he | popResume l he | resumeRead l he =>
    have hl : SameCommand s.step l := sameCommand_of_mem he
      (by simp [SameCommand, State.running, lsrEdges, dataEdges, stopEdges, mcrReadEdges, mcrWriteEdges])
    exact .inr (goesOn_goto hl hlatch (by simp) (by simp [SameResponse]))
  | begin l k hb =>
    have hl : SameCommand s.step l := by
      rcases hb with ⟨hs, rfl, -⟩ | ⟨hs, rfl, -⟩ | ⟨hs, -, rfl, -⟩ <;> simp [SameCommand, State.running, hs]
    exact .inr (goesOn_goto hl hlatch (by simp) (by simp [SameResponse]))
  | beginForever hs | ctsOn hs | ctsOff hs =>
    exact .inr (goesOn_goto (by simp [SameCommand, State.running, hs]) hlatch (by simp) (by simp [SameResponse]))
  | gate l hs _ hl | popRetry l hs _ _ hl | resumeRetry l hs _ hl =>
    exact .inr (goesOn_goto (by simp [SameCommand, State.running, hs]; grind) hlatch (by simp) (by simp [SameResponse]))

theorem ControlInv.microStep {s t : State} (h : ControlInv s) (hm : MicroStep s t) : ControlInv t := by
  obtain ⟨hbusy, hword⟩ := h
  rcases microStep_ended_or_goesOn hm with ⟨hs, hb⟩ | ⟨hrun, hb, -⟩
  · exact ⟨by simp [hs, hb], by simp [State.running, hs]⟩
  · obtain ⟨hop, hb0, hb1, ht, -⟩ := microStep_sameLatch hm
    refine ⟨?_, ?_⟩
    · have hidle : t.step ≠ .idle := by
        rw [Ne, ← running_eq_none_iff, hrun, running_eq_none_iff]
        exact microStep_step_ne_idle hm
      rw [hb, hbusy]
      exact iff_of_true (microStep_step_ne_idle hm) hidle
    · simpa only [hrun, State.latchedWord, hop, hb0, hb1, ht] using hword

/-- A CMD write while idle latches a legal word with its command's first label, or latches an illegal one at IDLE. -/
theorem ControlInv.hostWrite {s : State} (r : HostReg) (v : Word) (h : ControlInv s) : ControlInv (hostWrite r v s) := by
  obtain ⟨hbusy, hword⟩ := id h
  rcases hostWrite_cases r v s with
    ⟨-, e⟩ | ⟨-, e⟩ | ⟨-, -, e⟩ | ⟨-, hb, i, hd, e⟩ | ⟨-, hb, _, -, e⟩ | ⟨-, -, -, e⟩ <;> rw [e]
  · exact h
  · exact h
  · exact h
  · refine ⟨by simp [firstLabel_ne_idle], fun j hj => ?_⟩
    rw [running_of_started hd] at hj
    cases hj
    simpa [State.latchedWord, packWord_of_decode hd] using hd
  · have hs : s.step = .idle := by simpa [hb] using hbusy
    exact ⟨by simp [hs, hb], by simp [State.running, hs]⟩
  · exact h

/-- Settles O18: an edge ends the command or stays among its labels, and acceptance ties the label to the latched word. -/
theorem everyStepKeepsTheControlInvariant : Obligations.EveryStepKeepsTheControlInvariant := by
  intro s t
  exact step_keeps (fun _ _ h => h) (fun _ _ h hm => h.microStep hm) (fun r v _ h => h.hostWrite r v)
    (fun _ _ => ⟨by simp [applyReset, State.atReset], by simp [applyReset, State.atReset, State.running]⟩)

end Sys2Proof.Machine

/-! What a step does on the external bus, with the label it does it at: the modem registers, the counter, RTS. -/

namespace Sys2Proof.Machine

theorem source_mem_of_edge {edges : List (Label × Label)} {labels : List Label} {a b : Label} (he : (a, b) ∈ edges)
    (h : ∀ e ∈ edges, e.1 ∈ labels) : a ∈ labels :=
  h _ he

theorem target_notMem_of_edge {edges : List (Label × Label)} {labels : List Label} {a b : Label} (he : (a, b) ∈ edges)
    (h : ∀ e ∈ edges, e.2 ∉ labels) : b ∉ labels :=
  h _ he

/-! ## The labels that touch MSR or MCR -/

/-- Such a label is entered with flow control on or from another such label (R29). -/
theorem microStep_to_flowLabels {s t : State} (h : MicroStep s t) (ht : t.step ∈ flowLabels) :
    s.fcEn = true ∨ s.step ∈ flowLabels := by
  cases h with
  | drainDataStop _ _ hon | popResume _ _ hon => exact .inl hon
  | drainMcrRead _ he | resumeRead _ he => exact .inr (source_mem_of_edge he (by decide))
  | start _ he | deadline _ he | waitMore _ he | drainMore _ he | drainData _ he | drainMcrWrite _ he | drained _ he =>
    exact absurd ht (target_notMem_of_edge he (by decide))
  | gate _ _ _ hl =>
    rcases hl with ⟨-, rfl⟩ | ⟨-, hon, -⟩ | ⟨-, -, rfl⟩
    · simp [flowLabels] at ht
    · exact .inl hon
    · simp [flowLabels] at ht
  | popRetry _ _ _ _ hl | resumeRetry _ _ _ hl => rcases hl with ⟨-, rfl⟩ | ⟨-, rfl⟩ <;> simp [flowLabels] at ht
  | begin _ _ hl => rcases hl with ⟨-, rfl, -⟩ | ⟨-, rfl, -⟩ | ⟨-, -, rfl, -⟩ <;> simp [flowLabels] at ht
  | _ => simp [flowLabels] at ht

theorem FlowInv.microStep {s t : State} (h : FlowInv s) (hm : MicroStep s t) : FlowInv t := by
  obtain ⟨hfc, hlabel⟩ := h
  refine ⟨by rw [microStep_fcEn hm, microStep_params hm, hfc], fun hoff ht => ?_⟩
  rw [microStep_fcEn hm] at hoff
  rcases microStep_to_flowLabels hm ht with hon | hs
  · simp [hoff] at hon
  · exact hlabel hoff hs

theorem FlowInv.hostWrite {s : State} (r : HostReg) (v : Word) (h : FlowInv s) : FlowInv (hostWrite r v s) := by
  obtain ⟨hfc, hlabel⟩ := h
  refine ⟨by simpa using hfc, fun hoff => ?_⟩
  simp only [hostWrite_frame] at hoff
  rcases hostWrite_cases r v s with
    ⟨-, e⟩ | ⟨-, e⟩ | ⟨-, -, e⟩ | ⟨-, -, i, -, e⟩ | ⟨-, -, _, -, e⟩ | ⟨-, -, -, e⟩ <;> rw [e]
  case inr.inr.inr.inl => cases i <;> simp [firstLabel, flowLabels]
  all_goals simpa using hlabel hoff

/-- Settles O19: with flow control off, no edge and no acceptance enters a label that touches MSR or MCR. -/
theorem everyStepKeepsTheFlowInvariant : Obligations.EveryStepKeepsTheFlowInvariant := by
  intro s t
  exact step_keeps (fun _ _ h => h) (fun _ _ h hm => h.microStep hm) (fun r v _ h => h.hostWrite r v)
    (fun _ _ => ⟨rfl, fun _ => by simp [applyReset, State.atReset, flowLabels]⟩)

/-! ## The transaction of a step -/

/-- `timer_started` and `rts_shadow` are the same (R26, R27). -/
def SameTimerAndRts (s t : State) : Prop := t.timerStarted = s.timerStarted ∧ t.rtsShadow = s.rtsShadow

/-- The transaction of a step, with the label it is made at and what the step does to `timer_started` and `rts_shadow`. -/
inductive BusEffect (s t : State) : Prop where
  | quiet (hsaw : BusSaw [] s t) (hsame : SameTimerAndRts s t)
  | uart (d : BusDir) (r : ExtReg) (v : Word) (hreg : r = .lsr ∨ r = .data) (hsaw : BusSaw [busTx s.params d r v] s t)
      (hsame : SameTimerAndRts s t)
  | modemRead (r : ExtReg) (v : Word) (hreg : r = .msr ∨ r = .mcr) (hs : s.step ∈ flowLabels)
      (hsaw : BusSaw [busTx s.params .read r v] s t) (hsame : SameTimerAndRts s t)
  | rtsWrite (v : Bool) (m : Byte) (hs : s.step ∈ flowLabels)
      (hsaw : BusSaw [busTx s.params .write .mcr ((rtsByte v m).setWidth 32)] s t)
      (htimer : t.timerStarted = s.timerStarted) (hrts : t.rtsShadow = v)
  | counterRead (v : Word) (hs : s.step ∈ counterLabels) (hsaw : BusSaw [busTx s.params .read .cntVal v] s t)
      (hsame : SameTimerAndRts s t)
  | counterStart (hoff : s.timerStarted = false) (hon : t.timerStarted = true)
      (hsaw : BusSaw [busTx s.params .write .cntCtrl s.params.cntStartWord] s t) (hrts : t.rtsShadow = s.rtsShadow)

/-- The start micro-step writes CNT_CTRL when the counter is not started, else it makes no transaction (R121). -/
theorem busEffect_of_start {s t : State} (htrace : t.env.trace = (startTimer s).env.trace)
    (ht : t.timerStarted = true) (hr : t.rtsShadow = s.rtsShadow) : BusEffect s t := by
  rw [startTimer_trace] at htrace
  split at htrace
  · rename_i hon
    exact .quiet (busSaw_nil_iff.2 htrace) ⟨ht.trans hon.symm, hr⟩
  · rename_i hoff
    exact .counterStart (eq_false_of_ne_true hoff) ht htrace hr

theorem microStep_busEffect {s t : State} (h : MicroStep s t) : BusEffect s t := by
  cases h with
  | push | pop | nearlyFull | below | beginForever | popResume | popDone | popRetry =>
    exact .quiet (busSaw_nil_iff.2 (by simp)) (by simp [SameTimerAndRts])
  | start | begin => exact busEffect_of_start (by simp [startTimer_trace, State.traceWith]) (by simp) (by simp)
  | now hs | deadlineAfter hs | reached hs =>
    exact .counterRead s.nextCnt (by simp [hs, counterLabels]) (by simp [BusSaw, State.traceWith])
      (by simp [SameTimerAndRts])
  | deadline _ he | waitMore _ he =>
    exact .counterRead s.nextCnt (source_mem_of_edge he (by decide)) (by simp [BusSaw, State.traceWith])
      (by simp [SameTimerAndRts])
  | waitDone hs =>
    exact .counterRead s.nextCnt ((by decide : ∀ l ∈ [Label.rt10, .sm3, .ss3], l ∈ counterLabels) _ hs)
      (by simp [BusSaw, State.traceWith]) (by simp [SameTimerAndRts])
  | drainMore | poll | gate | drained =>
    exact .uart .read .lsr (s.nextLsr.setWidth 32) (.inl rfl) (by simp [BusSaw, State.traceWith]) (by simp [SameTimerAndRts])
  | drainData | drainDataStop =>
    exact .uart .read .data (s.nextData.setWidth 32) (.inr rfl) (by simp [BusSaw, State.traceWith])
      (by simp [SameTimerAndRts])
  | transmit =>
    exact .uart .write .data (s.cB0.setWidth 32) (.inr rfl) (by simp [BusSaw, State.traceWith]) (by simp [SameTimerAndRts])
  | ctsOn hs | ctsOff hs =>
    exact .modemRead .msr (s.nextMsr.setWidth 32) (.inl rfl) (by simp [hs, flowLabels])
      (by simp [BusSaw, State.traceWith]) (by simp [SameTimerAndRts])
  | drainMcrRead _ he | resumeRead _ he =>
    exact .modemRead .mcr (s.env.mcr.setWidth 32) (.inr rfl) (source_mem_of_edge he (by decide))
      (by simp [BusSaw, State.traceWith]) (by simp [SameTimerAndRts])
  | drainMcrWrite _ he =>
    exact .rtsWrite false s.tMcr (source_mem_of_edge he (by decide)) (by simp [BusSaw, State.traceWith]) (by simp) (by simp)
  | resumeDone hs =>
    have hl : s.step ∈ flowLabels := by rcases hs with hs | ⟨hs, -⟩ <;> simp [hs, flowLabels]
    exact .rtsWrite true s.tMcr hl (by simp [BusSaw, State.traceWith]) (by simp) (by simp)
  | resumeRetry _ hs =>
    exact .rtsWrite true s.tMcr (by simp [hs, flowLabels]) (by simp [BusSaw, State.traceWith]) (by simp) (by simp)

/-- The schedule has no part in it. -/
theorem busEffect_of_afterMove {s t : State} (h : BusEffect s.afterMove t) : BusEffect s t := by
  cases h with
  | quiet hsaw hsame => exact .quiet hsaw hsame
  | uart d r v hreg hsaw hsame => exact .uart d r v hreg hsaw hsame
  | modemRead r v hreg hs hsaw hsame => exact .modemRead r v hreg hs hsaw hsame
  | rtsWrite v m hs hsaw htimer hrts => exact .rtsWrite v m hs hsaw htimer hrts
  | counterRead v hs hsaw hsame => exact .counterRead v hs hsaw hsame
  | counterStart hoff hon hsaw hrts => exact .counterStart hoff hon hsaw hrts

/-- A reset makes no transaction and clears both latches (R200, R202); any other step has one of the effects above. -/
theorem step_busEffect {s t : State} (h : step s = .next t) :
    s.nextMove = .reset ∧ BusSaw [] s t ∧ t.timerStarted = false ∧ t.rtsShadow = false
    ∨ s.nextMove ≠ .reset ∧ BusEffect s t := by
  rcases step_edges h with
    ⟨hm, hmicro | ⟨-, rfl⟩⟩ | ⟨r, ⟨_, hm, -, rfl⟩ | ⟨_, v, hm, -, rfl⟩⟩ | ⟨hm, rfl⟩
  · exact .inr ⟨by simp [hm], busEffect_of_afterMove (microStep_busEffect hmicro)⟩
  · exact .inr ⟨by simp [hm], .quiet (busSaw_nil_iff.2 (by simp)) (by simp [SameTimerAndRts])⟩
  · exact .inr ⟨by simp [hm], .quiet (busSaw_nil_iff.2 (by simp)) (by simp [SameTimerAndRts])⟩
  · exact .inr ⟨by simp [hm], .quiet (busSaw_nil_iff.2 (by simp)) (by simp [SameTimerAndRts])⟩
  · exact .inl ⟨hm, busSaw_nil_iff.2 rfl, rfl, rfl⟩

theorem not_busSaw_singleton_of_quiet {s t : State} (hquiet : BusSaw [] s t) (tx : BusTx) : ¬ BusSaw [tx] s t := by
  intro h
  unfold BusSaw at hquiet h
  simp [hquiet] at h

theorem busSaw_singleton_unique {s t : State} {tx tx' : BusTx} (h : BusSaw [tx] s t) (h' : BusSaw [tx'] s t) :
    tx = tx' := by
  unfold BusSaw at h h'
  simpa [h] using h'

/-- Settles O20: with `fc_en = 0` the label makes neither of the effects on MSR and MCR. -/
theorem withoutFlowControlNoModemAccess : Obligations.WithoutFlowControlNoModemAccess := by
  intro s t hinv hstep
  obtain ⟨hfc, -⟩ := everyStepKeepsTheFlowInvariant s t hinv hstep
  obtain ⟨-, hlabel⟩ := hinv
  refine ⟨by rw [hfc, step_params hstep], fun hoff tx htx => ?_⟩
  have hnot := hlabel hoff
  rcases step_busEffect hstep with ⟨-, hquiet, -⟩ | ⟨-, heff⟩
  · exact absurd htx (not_busSaw_singleton_of_quiet hquiet tx)
  · cases heff with
    | quiet hsaw => exact absurd htx (not_busSaw_singleton_of_quiet hsaw tx)
    | modemRead _ _ _ hs | rtsWrite _ _ hs => exact absurd hs hnot
    | uart d r v hreg hsaw =>
      rw [busSaw_singleton_unique htx hsaw]
      rcases hreg with rfl | rfl <;> simp [busTx]
    | counterRead v _ hsaw | counterStart _ _ hsaw =>
      rw [busSaw_singleton_unique htx hsaw]
      simp [busTx]

theorem rtsByte_rts (v : Bool) (m : Byte) : ((rtsByte v m).setWidth 32 : Word).getLsbD 1 = v := by
  cases v <;> simp [rtsByte]

/-- Settles O27, by cases on the step's effect: only the RTS write writes MCR, and only it and reset reach the shadow. -/
theorem rtsShadowIsTheLastRtsWritten : Obligations.RtsShadowIsTheLastRtsWritten := by
  intro s t hstep
  rcases step_busEffect hstep with ⟨hm, hquiet, -, hrts⟩ | ⟨hm, heff⟩
  · exact ⟨fun tx htx => absurd htx (not_busSaw_singleton_of_quiet hquiet tx), fun _ => .inl ⟨hm, hrts⟩⟩
  · cases heff with
    | quiet hsaw hsame =>
      exact ⟨fun tx htx => absurd htx (not_busSaw_singleton_of_quiet hsaw tx), fun _ => .inr ⟨hm, hsame.2⟩⟩
    | rtsWrite v m _ hsaw _ hrts =>
      refine ⟨fun tx htx _ _ => ?_, fun hno => absurd rfl (hno _ hsaw rfl)⟩
      rw [busSaw_singleton_unique htx hsaw, hrts]
      exact (rtsByte_rts v m).symm
    | uart d r v hreg hsaw hsame =>
      refine ⟨fun tx htx _ hmcr => ?_, fun _ => .inr ⟨hm, hsame.2⟩⟩
      rw [busSaw_singleton_unique htx hsaw] at hmcr
      rcases hreg with rfl | rfl <;> simp [busTx] at hmcr
    | modemRead _ _ _ _ hsaw hsame | counterRead _ _ hsaw hsame =>
      refine ⟨fun tx htx hdir _ => ?_, fun _ => .inr ⟨hm, hsame.2⟩⟩
      rw [busSaw_singleton_unique htx hsaw] at hdir
      simp [busTx] at hdir
    | counterStart _ _ hsaw hrts =>
      refine ⟨fun tx htx _ hmcr => ?_, fun _ => .inr ⟨hm, hrts⟩⟩
      rw [busSaw_singleton_unique htx hsaw] at hmcr
      simp [busTx] at hmcr

/-- The counter's side of a step: it is started by the one write of CNT_CTRL, or it stays as it was and CNT_VAL is read
only at the labels that read it. -/
theorem busEffect_timer {s t : State} (h : BusEffect s t) :
    (s.timerStarted = false ∧ t.timerStarted = true
      ∧ BusSaw [busTx s.params .write .cntCtrl s.params.cntStartWord] s t)
    ∨ (t.timerStarted = s.timerStarted
      ∧ ∀ tx, BusSaw [tx] s t → tx.reg ≠ .cntCtrl ∧ (tx.reg = .cntVal → s.step ∈ counterLabels)) := by
  cases h with
  | counterStart hoff hon hsaw => exact .inl ⟨hoff, hon, hsaw⟩
  | quiet hsaw hsame => exact .inr ⟨hsame.1, fun tx htx => absurd htx (not_busSaw_singleton_of_quiet hsaw tx)⟩
  | counterRead v hs hsaw hsame =>
    refine .inr ⟨hsame.1, fun tx htx => ?_⟩
    rw [busSaw_singleton_unique htx hsaw]
    exact ⟨by simp [busTx], fun _ => hs⟩
  | rtsWrite v m _ hsaw htimer =>
    refine .inr ⟨htimer, fun tx htx => ?_⟩
    rw [busSaw_singleton_unique htx hsaw]
    simp [busTx]
  | uart _ _ _ hreg hsaw hsame | modemRead _ _ hreg _ hsaw hsame =>
    refine .inr ⟨hsame.1, fun tx htx => ?_⟩
    rw [busSaw_singleton_unique htx hsaw]
    rcases hreg with rfl | rfl <;> simp [busTx]

/-- Settles O22, by the counter's side of a step's effect. -/
theorem counterIsStartedOncePerReset : Obligations.CounterIsStartedOncePerReset := by
  intro s t hstep
  rcases step_busEffect hstep with ⟨hm, hquiet, htimer, -⟩ | ⟨hm, heff⟩
  · have hno := not_busSaw_singleton_of_quiet hquiet
    exact ⟨fun _ => htimer, fun h => absurd hm h, fun _ hon => by simp [htimer] at hon,
      fun tx htx => absurd htx (hno tx), fun _ tx htx => absurd htx (hno tx)⟩
  · refine ⟨fun h => absurd h hm, ?_⟩
    rcases busEffect_timer heff with ⟨hoff, hon, hsaw⟩ | ⟨hsame, htx⟩
    · refine ⟨fun _ _ => hon, fun _ _ => hsaw, fun tx htx _ => ⟨hoff, hon, busSaw_singleton_unique htx hsaw⟩,
        fun _ tx htx hreg => ?_⟩
      rw [busSaw_singleton_unique htx hsaw] at hreg
      simp [busTx] at hreg
    · refine ⟨fun _ h => hsame.trans h, fun hoff hon => by simp [hsame, hoff] at hon,
        fun tx h hreg => absurd hreg (htx tx h).1, fun hinv tx h hreg => ?_⟩
      obtain ⟨hcounter, -⟩ := hinv
      exact hcounter ((htx tx h).2 hreg)

/-! ## The response registers -/

theorem illegal_response (w : Word) : Response.illegal w = ⟨1#32 <<< 18, w, 0#32⟩ := by
  simp [Response.illegal, packRsp, bitAt]

/-- Of the host's writes, only that of an illegal word to CMD while idle reaches the response (R79). -/
theorem hostWrite_response (r : HostReg) (v : Word) (s : State) :
    SameResponse s (hostWrite r v s)
    ∨ r = .cmd ∧ s.busy = false ∧ ∃ e, decode v = .error e ∧ (hostWrite r v s).rsp = 1#32 <<< 18
        ∧ (hostWrite r v s).rspV0 = v ∧ (hostWrite r v s).rspV1 = 0#32 := by
  rcases hostWrite_cases r v s with
    ⟨-, e⟩ | ⟨-, e⟩ | ⟨-, -, e⟩ | ⟨-, -, _, -, e⟩ | ⟨hr, hb, err, hd, e⟩ | ⟨-, -, -, e⟩
  case inr.inr.inr.inr.inl => exact .inr ⟨hr, hb, err, hd, by simp [e, illegal_response]⟩
  all_goals exact .inl (by simp [e, SameResponse])

/-- Settles O30: an edge that does not end the command, a read and any other host write leave the response. -/
theorem responseChangesOnlyAtFinishOrRejection : Obligations.ResponseChangesOnlyAtFinishOrRejection := by
  intro s t hstep
  rcases step_edges hstep with
    ⟨hm, hmicro | ⟨-, rfl⟩⟩ | ⟨r, ⟨_, -, -, rfl⟩ | ⟨addr, v, hm, haddr, rfl⟩⟩ | ⟨hm, rfl⟩
  · rcases microStep_ended_or_goesOn hmicro with hend | ⟨-, -, hsame⟩
    · have hidle : s.afterMove.step ≠ .idle := microStep_step_ne_idle hmicro
      exact .inr (.inl ⟨hm, hidle, hend⟩)
    · exact .inl hsame
  · exact .inl ⟨rfl, rfl, rfl⟩
  · exact .inl ⟨rfl, rfl, rfl⟩
  · rcases hostWrite_response r v s.afterMove with hsame | ⟨rfl, hb, e, hd, hrsp⟩
    · exact .inl hsame
    · have ha : addr = s.params.hostBase := haddr
      exact .inr (.inr (.inl ⟨hb, v, e, by rw [hm, ha], hd, hrsp⟩))
  · exact .inr (.inr (.inr ⟨hm, rfl, rfl, rfl⟩))

end Sys2Proof.Machine

/-! What a host puts into the operand registers has no effect on the running command (R31). -/

namespace Sys2Proof.Machine

/-- The state with other operand registers (R36). -/
def State.withArgs (lo hi : Word) (s : State) : State := { s with argLo := lo, argHi := hi }

section
variable (lo hi : Word) (s : State)

@[simp] theorem withArgs_fields :
    (s.withArgs lo hi).params = s.params ∧ (s.withArgs lo hi).wp = s.wp ∧ (s.withArgs lo hi).rp = s.rp
    ∧ (s.withArgs lo hi).timerStarted = s.timerStarted ∧ (s.withArgs lo hi).dlStart = s.dlStart
    ∧ (s.withArgs lo hi).dlEnd = s.dlEnd ∧ (s.withArgs lo hi).fcEn = s.fcEn ∧ (s.withArgs lo hi).step = s.step
    ∧ (s.withArgs lo hi).tLsr = s.tLsr ∧ (s.withArgs lo hi).tData = s.tData ∧ (s.withArgs lo hi).tMsr = s.tMsr
    ∧ (s.withArgs lo hi).tCur = s.tCur ∧ (s.withArgs lo hi).tRes = s.tRes ∧ (s.withArgs lo hi).tTicks = s.tTicks := by
  and_intros <;> rfl

/-- What URBC computes from its state does not look at the operand registers. -/
@[simp] theorem withArgs_derived :
    (∀ k, (s.withArgs lo hi).nearlyFull k = s.nearlyFull k) ∧ (∀ k, (s.withArgs lo hi).below k = s.below k)
    ∧ (s.withArgs lo hi).resumeDue = s.resumeDue ∧ (s.withArgs lo hi).deadlinePassed = s.deadlinePassed
    ∧ (s.withArgs lo hi).threshold = s.threshold ∧ (s.withArgs lo hi).ticks = s.ticks
    ∧ (s.withArgs lo hi).endOperand = s.endOperand ∧ (s.withArgs lo hi).startOperand = s.startOperand
    ∧ (s.withArgs lo hi).secondTicks = s.secondTicks ∧ (s.withArgs lo hi).millisecondTicks = s.millisecondTicks
    ∧ popResult (s.withArgs lo hi) = popResult s := by
  and_intros <;> intros <;> rfl

/-! Each operation is the same with other operand registers. -/

@[simp] theorem ops_withArgs :
    (∀ l, goto l (s.withArgs lo hi) = (goto l s).withArgs lo hi)
    ∧ (∀ r, finish r (s.withArgs lo hi) = (finish r s).withArgs lo hi)
    ∧ readLsr (s.withArgs lo hi) = (readLsr s).withArgs lo hi
    ∧ readData (s.withArgs lo hi) = (readData s).withArgs lo hi
    ∧ readMsr (s.withArgs lo hi) = (readMsr s).withArgs lo hi
    ∧ readCnt (s.withArgs lo hi) = (readCnt s).withArgs lo hi
    ∧ readMcr (s.withArgs lo hi) = (readMcr s).withArgs lo hi
    ∧ (∀ b, writeData b (s.withArgs lo hi) = (writeData b s).withArgs lo hi)
    ∧ (∀ v, writeRts v (s.withArgs lo hi) = (writeRts v s).withArgs lo hi)
    ∧ (∀ k, setTicks k (s.withArgs lo hi) = (setTicks k s).withArgs lo hi)
    ∧ (∀ k, formDeadline k (s.withArgs lo hi) = (formDeadline k s).withArgs lo hi) := by
  and_intros <;> intros <;> rfl

theorem ite_withArgs (c : Prop) [Decidable c] (t u : State) :
    (if c then t.withArgs lo hi else u.withArgs lo hi) = (if c then t else u).withArgs lo hi :=
  (apply_ite (State.withArgs lo hi) c t u).symm

@[simp] theorem startTimer_withArgs : startTimer (s.withArgs lo hi) = (startTimer s).withArgs lo hi := by
  unfold startTimer
  rw [← ite_withArgs]
  rfl

@[simp] theorem pushRecord_withArgs (st d : Byte) :
    pushRecord st d (s.withArgs lo hi) = (pushRecord st d s).withArgs lo hi := by
  simp only [pushRecord, withArgs_fields]
  cases s.params.overwriteMode <;> rfl

@[simp] theorem popRecord_withArgs : popRecord (s.withArgs lo hi) = (popRecord s).withArgs lo hi := by
  unfold popRecord
  rw [← ite_withArgs]
  rfl

@[simp] theorem popToTemp_withArgs : popToTemp (s.withArgs lo hi) = (popToTemp s).withArgs lo hi := by
  simp only [popToTemp, popRecord_withArgs, withArgs_derived]
  rfl

/-! So is each part of a meaning. -/

@[simp] theorem drainLsr_withArgs (d : DrainLabels) {exit : State → State}
    (hexit : ∀ u : State, exit (u.withArgs lo hi) = (exit u).withArgs lo hi) :
    drainLsr d exit (s.withArgs lo hi) = (drainLsr d exit s).withArgs lo hi := by
  simp [drainLsr, hexit, ite_withArgs]

@[simp] theorem drain_withArgs (d : DrainLabels) :
    drainData d (s.withArgs lo hi) = (drainData d s).withArgs lo hi
    ∧ drainMcrRead d (s.withArgs lo hi) = (drainMcrRead d s).withArgs lo hi
    ∧ drainMcrWrite d (s.withArgs lo hi) = (drainMcrWrite d s).withArgs lo hi := by
  simp [drainData, drainMcrRead, drainMcrWrite, ite_withArgs]

@[simp] theorem popAndResume_withArgs (l : Label) {after : State → State}
    (hafter : ∀ u : State, after (u.withArgs lo hi) = (after u).withArgs lo hi) :
    popAndResume l after (s.withArgs lo hi) = (popAndResume l after s).withArgs lo hi := by
  simp [popAndResume, hafter, ite_withArgs]

@[simp] theorem write_withArgs :
    writeGate (s.withArgs lo hi) = (writeGate s).withArgs lo hi
    ∧ writeCts (s.withArgs lo hi) = (writeCts s).withArgs lo hi := by
  simp [writeGate, writeCts, ite_withArgs]

@[simp] theorem readTo_withArgs :
    finishRecord (s.withArgs lo hi) = (finishRecord s).withArgs lo hi
    ∧ (∀ t, readToBegin t (s.withArgs lo hi) = (readToBegin t s).withArgs lo hi)
    ∧ readToDeadline (s.withArgs lo hi) = (readToDeadline s).withArgs lo hi
    ∧ (∀ t, afterRead t (s.withArgs lo hi) = (afterRead t s).withArgs lo hi)
    ∧ readToCheck (s.withArgs lo hi) = (readToCheck s).withArgs lo hi := by
  simp [finishRecord, readToBegin, readToDeadline, afterRead, readToCheck, ite_withArgs]

@[simp] theorem sleep_withArgs (l : Label) :
    (∀ k, sleepBegin k l (s.withArgs lo hi) = (sleepBegin k l s).withArgs lo hi)
    ∧ sleepDeadline l (s.withArgs lo hi) = (sleepDeadline l s).withArgs lo hi
    ∧ sleepWait l (s.withArgs lo hi) = (sleepWait l s).withArgs lo hi := by
  simp [sleepBegin, sleepDeadline, sleepWait, ite_withArgs]

/-- A micro-step is the same with other operand registers, which it leaves as they are (R31). -/
theorem exec_withArgs {i : Instr} {s t : State} (h : exec i s = .next t) :
    exec i (s.withArgs lo hi) = .next (t.withArgs lo hi) := by
  cases i <;> cases h
  case push | pop | nearlyFull | below => simp [exec, execPush, execPop, execNearlyFull, execBelow]
  all_goals
    simp only [exec, execNow, execDeadlineAfter, execReached, execPoll, execWriteByte, execReadNb, execReadTo, execSleepMs,
      execSleepS, withArgs_fields, Host.Outcome.next.injEq]
    split <;> simp

end

/-- Whatever runs, a host write leaves the latch as it was while `busy` (R31, R78). -/
theorem hostWrite_sameLatch (r : HostReg) (v : Word) {s : State} (hb : s.busy = true) :
    SameLatch s (hostWrite r v s) := by
  rcases hostWrite_cases r v s with
    ⟨-, e⟩ | ⟨-, e⟩ | ⟨-, -, e⟩ | ⟨-, hidle, -⟩ | ⟨-, hidle, -⟩ | ⟨-, -, -, e⟩
  case inr.inr.inr.inl | inr.inr.inr.inr.inl => simp [hb] at hidle
  all_goals simp [e, SameLatch]

/-- Settles O31: the latch by cases on the step, the second run by `exec_withArgs`. -/
theorem runningCommandIgnoresTheOperandRegisters : Obligations.RunningCommandIgnoresTheOperandRegisters := by
  intro s t hstep
  have hlatch : s.nextMove = .controller → SameLatch s t := by
    intro hm
    rcases step_edges hstep with ⟨-, hmicro | ⟨-, rfl⟩⟩ | ⟨_, ⟨_, hm', -⟩ | ⟨_, _, hm', -⟩⟩ | ⟨hm', -⟩
    · have ha : SameLatch s.afterMove t := microStep_sameLatch hmicro
      exact ha
    · exact ⟨rfl, rfl, rfl, rfl, rfl⟩
    all_goals simp [hm] at hm'
  refine ⟨fun hb hm => ?_, fun hm => ⟨hlatch hm, fun lo hi => ?_⟩⟩
  · rcases step_edges hstep with ⟨hm', -⟩ | ⟨r, ⟨_, -, -, rfl⟩ | ⟨_, v, -, -, rfl⟩⟩ | ⟨hm', -⟩
    · exact hlatch hm'
    · exact ⟨rfl, rfl, rfl, rfl, rfl⟩
    · exact hostWrite_sameLatch r v (s := s.afterMove) hb
    · exact absurd hm' hm
  · have hm' : (s.withArgs lo hi).nextMove = .controller := hm
    show step (s.withArgs lo hi) = .next (t.withArgs lo hi)
    rcases step_cases hstep with ⟨-, ⟨i, hr, he⟩ | ⟨hr, rfl⟩⟩ | ⟨_, hh, -⟩ | ⟨hh, -⟩
    · rw [step_of_controller_running (i := i) hm' hr]
      exact exec_withArgs lo hi he
    · rw [step_of_controller_idle hm' (running_eq_none_iff.1 hr)]
      rfl
    all_goals simp [hm] at hh

end Sys2Proof.Machine

/-! The frame of every command: each register is written only at the labels whose rule writes it (R20 to R32). -/

namespace Sys2Proof.Machine

section
variable {s t : State} (h : MicroStep s t)
include h

theorem microStep_resets : t.env.resets = s.env.resets := by
  cases h <;> simp

/-- PUSH.1 and the DATA micro-steps of the drains store (R100). -/
theorem microStep_buf_wp (hs : s.step ∉ [.push1, .poll2, .wb2, .rn2, .rt4]) : t.buf = s.buf ∧ t.wp = s.wp := by
  cases h with
  | push hl => simp [hl] at hs
  | drainData _ he | drainDataStop _ he => exact absurd (source_mem_of_edge he (by decide)) hs
  | _ => simp

/-- So do they step `rp` under DROP_OLDEST, and the pops (R101, R103). -/
theorem microStep_rp (hs : s.step ∉ [.push1, .pop1, .poll2, .wb2, .rn2, .rt4, .rn5, .rt7]) : t.rp = s.rp := by
  cases h with
  | push hl | pop hl | popRetry _ hl => simp [hl] at hs
  | drainData _ he | drainDataStop _ he | popResume _ he => exact absurd (source_mem_of_edge he (by decide)) hs
  | popDone hl => rcases hl with hl | ⟨hl, -⟩ <;> simp [hl] at hs
  | _ => simp

theorem microStep_timerStarted (hs : s.step ∉ [.now1, .da1, .rc1, .rt1, .sm1, .ss1]) :
    t.timerStarted = s.timerStarted := by
  cases h with
  | start _ he => exact absurd (source_mem_of_edge he (by decide)) hs
  | begin _ _ hl => rcases hl with ⟨hl, -⟩ | ⟨hl, -⟩ | ⟨hl, -⟩ <;> simp [hl] at hs
  | _ => simp

theorem microStep_sameDeadline (hs : s.step ∉ [.da2, .rt2, .sm2, .ss2]) : SameDeadline s t := by
  cases h with
  | deadlineAfter hl => simp [hl] at hs
  | deadline _ he => exact absurd (source_mem_of_edge he (by decide)) hs
  | _ => simp [SameDeadline]

theorem microStep_sameRts (hs : s.step ∉ [.poll4, .wb4, .rn4, .rn7, .rt6, .rt9]) : SameRts s t := by
  cases h with
  | drainMcrWrite _ he => exact absurd (source_mem_of_edge he (by decide)) hs
  | resumeDone hl => rcases hl with hl | ⟨hl, -⟩ <;> simp [hl] at hs
  | resumeRetry _ hl => simp [hl] at hs
  | _ => simp [SameRts]

theorem microStep_tLsr (hs : s.step ∉ [.poll1, .wb1, .rn1, .rt3]) : t.tLsr = s.tLsr ∧ t.env.lsrIn = s.env.lsrIn := by
  cases h with
  | poll hl | gate _ hl => simp [hl] at hs
  | drainMore _ he | drained _ he => exact absurd (source_mem_of_edge he (by decide)) hs
  | _ => simp

theorem microStep_tData (hs : s.step ∉ [.poll2, .wb2, .rn2, .rt4]) :
    t.tData = s.tData ∧ t.env.dataIn = s.env.dataIn := by
  cases h with
  | drainData _ he | drainDataStop _ he => exact absurd (source_mem_of_edge he (by decide)) hs
  | _ => simp

theorem microStep_tMcr (hs : s.step ∉ [.poll3, .wb3, .rn3, .rn6, .rt5, .rt8]) : t.tMcr = s.tMcr := by
  cases h with
  | drainMcrRead _ he | resumeRead _ he => exact absurd (source_mem_of_edge he (by decide)) hs
  | _ => simp

theorem microStep_tMsr (hs : s.step ≠ .wb5) : t.tMsr = s.tMsr ∧ t.env.msrIn = s.env.msrIn := by
  cases h with
  | ctsOn hl | ctsOff hl => exact absurd hl hs
  | _ => simp

theorem microStep_tCur (hs : s.step ∉ counterLabels) : t.tCur = s.tCur ∧ t.env.cntIn = s.env.cntIn := by
  cases h with
  | now hl | deadlineAfter hl | reached hl => simp [hl, counterLabels] at hs
  | deadline _ he | waitMore _ he => exact absurd (source_mem_of_edge he (by decide)) hs
  | waitDone hl => exact absurd ((by decide : ∀ l ∈ [Label.rt10, .sm3, .ss3], l ∈ counterLabels) _ hl) hs
  | _ => simp

/-- Only the pops of READ_NB and READ_TO go to `t_res`, so not POP's (log 9). -/
theorem microStep_tRes (hs : s.step ∉ [.rn5, .rt7]) : t.tRes = s.tRes := by
  cases h with
  | popResume _ he => exact absurd (source_mem_of_edge he (by decide)) hs
  | popDone hl => rcases hl with hl | ⟨hl, -⟩ <;> simp [hl] at hs
  | popRetry _ hl => simp [hl] at hs
  | _ => simp

theorem microStep_tTicks (hs : s.step ∉ [.rt1, .sm1, .ss1]) : t.tTicks = s.tTicks := by
  cases h with
  | begin _ _ hl => rcases hl with ⟨hl, -⟩ | ⟨hl, -⟩ | ⟨hl, -⟩ <;> simp [hl] at hs
  | _ => simp

end

/-- Settles O33, register by register over the label graph. -/
theorem eachRegisterChangesOnlyAtItsLabels : Obligations.EachRegisterChangesOnlyAtItsLabels := by
  intro i s t hr he
  have h := microStep_of_exec hr he
  exact ⟨microStep_sameHostSide h, microStep_sameLatch h, microStep_resets h, microStep_buf_wp h, microStep_rp h,
    microStep_timerStarted h, microStep_sameDeadline h, microStep_sameRts h, microStep_tLsr h, microStep_tData h,
    microStep_tMcr h, microStep_tMsr h, microStep_tCur h, microStep_tRes h, microStep_tTicks h⟩

/-! ## Runs of PUSH and POP -/

theorem RingInv.finish {s : State} (h : RingInv s) (r : Response) : RingInv (finish r s) :=
  h.of_same (by simp) (by simp [SameRing])

theorem finish_unread (r : Response) (s : State) : (finish r s).unread = s.unread :=
  unread_of_same (by simp) (by simp [SameRing])

/-- A run's first command, with the POP's RSP word (R81). -/
theorem ringRun_push {cs : List RingCommand} {st d : Byte} {s u : State} {rs : List Word}
    (h : ringRun cs (finish .zero (pushRecord st d s)) = some (u, rs)) : ringRun (.push st d :: cs) s = some (u, rs) := by
  simp [ringRun, RingCommand.instr, exec, execPush, h]

theorem ringRun_pop {cs : List RingCommand} {s u : State} {rs : List Word}
    (h : ringRun cs (finish (.record (popResult s)) (popRecord s)) = some (u, rs)) :
    ringRun (.pop :: cs) s = some (u, recordWord (popResult s) :: rs) := by
  rw [record_eq] at h
  simp [ringRun, RingCommand.instr, exec, execPop, h, record_eq]

/-- Settles O39, by induction on the commands: each push and pop does to the unread records what it does to the queue. -/
theorem ringCommandsActAsABoundedQueue : Obligations.RingCommandsActAsABoundedQueue := by
  intro cs
  induction cs with
  | nil => exact fun s h => ⟨s, rfl, rfl, h⟩
  | cons c cs ih =>
    intro s h
    obtain ⟨hc, -, -⟩ := id h
    cases c with
    | push st d =>
      obtain ⟨t, hrun, hun, hinv⟩ := ih _ ((h.push st d).finish .zero)
      simp only [finish_unread, hc.push_unread, finish_fields, pushRecord_frame] at hrun hun
      exact ⟨t, ringRun_push hrun, hun, hinv⟩
    | pop =>
      obtain ⟨t, hrun, hun, hinv⟩ := ih _ (h.pop.finish (.record (popResult s)))
      simp only [finish_unread, hc.pop_unread, finish_fields, popRecord_frame] at hrun hun
      refine ⟨t, ?_, hun, hinv⟩
      rw [ringRun_pop hrun, hc.pop_result]
      rfl

end Sys2Proof.Machine

/-! The host's window: the operand registers, STAT, CURSORS, the reads, and the acceptance of CMD (R35 to R40, R78). -/

namespace Sys2Proof.Machine

/-! ## Accesses to one register -/

/-- Settles O9: the listed offsets and contents are those of the eight registers. -/
theorem hostReadsHaveNoSideEffect : Obligations.HostReadsHaveNoSideEffect := by
  intro s k v hb hk hm
  have hreg : (k, v) ∈ hostRegs.map (fun r => (r.offset, s.hostRead r)) := hk
  obtain ⟨r, -, hr⟩ := List.mem_map.1 hreg
  cases hr
  exact ⟨r, step_hostRead r hb hm⟩

/-- Settles O13: the listed offsets are those of the five read-only registers. -/
theorem readOnlyRegistersIgnoreWrites : Obligations.ReadOnlyRegistersIgnoreWrites := by
  intro s k v hb hk hm
  have hreg : k ∈ [HostReg.rsp, .rspV0, .rspV1, .stat, .cursors].map HostReg.offset := hk
  obtain ⟨r, hr, rfl⟩ := List.mem_map.1 hreg
  have hignored : hostWrite r v s.afterMove = s.afterMove := by
    simp only [List.mem_cons, List.not_mem_nil, or_false] at hr
    rcases hr with rfl | rfl | rfl | rfl | rfl <;> rfl
  rw [step_hostWrite r v hb hm, hignored]

/-- A host write changes ARG_LO only when it is a write of ARG_LO, and ARG_HI only when it is one of ARG_HI (R36). -/
theorem hostWrite_args (r : HostReg) (v : Word) (s : State) :
    (r ≠ .argLo → (hostWrite r v s).argLo = s.argLo) ∧ (r ≠ .argHi → (hostWrite r v s).argHi = s.argHi) := by
  rcases hostWrite_cases r v s with
    ⟨rfl, e⟩ | ⟨rfl, e⟩ | ⟨-, -, e⟩ | ⟨-, -, _, -, e⟩ | ⟨-, -, _, -, e⟩ | ⟨-, -, -, e⟩ <;> simp [e]

theorem step_args {s t : State} (h : step s = .next t) (hm : s.nextMove ≠ .reset) :
    ((∀ x, s.nextMove ≠ .host (.write (s.params.hostBase + 0x04) 4 x)) → t.argLo = s.argLo)
    ∧ ((∀ x, s.nextMove ≠ .host (.write (s.params.hostBase + 0x08) 4 x)) → t.argHi = s.argHi) := by
  rcases step_edges h with
    ⟨-, hmicro | ⟨-, rfl⟩⟩ | ⟨r, ⟨_, -, -, rfl⟩ | ⟨addr, v, hw, rfl, rfl⟩⟩ | ⟨hm', -⟩
  · obtain ⟨hlo, hhi, -⟩ := microStep_sameHostSide hmicro
    exact ⟨fun _ => hlo, fun _ => hhi⟩
  · exact ⟨fun _ => rfl, fun _ => rfl⟩
  · exact ⟨fun _ => rfl, fun _ => rfl⟩
  · obtain ⟨hlo, hhi⟩ := hostWrite_args r v s.afterMove
    exact ⟨fun hno => hlo fun hr => hno v (by rw [hw, hr]; rfl), fun hno => hhi fun hr => hno v (by rw [hw, hr]; rfl)⟩
  · exact absurd hm' hm

/-- What the acceptance of a legal word latches of the operand registers (R31, R36). -/
theorem writeCmd_args {s : State} {w : Word} {i : Instr} (hb : s.busy = false) (hd : decode w = .ok i) :
    (writeCmd w s).argLow = s.argLo ∧ (writeCmd w s).argHigh = s.argHi := by
  simp [writeCmd, acceptWord, hb, hd, State.argLow, State.argHigh, packArg_low, packArg_high]

/-- Settles O8: the two writes are single steps, acceptance latches both, and no other move reaches them. -/
theorem operandRegistersArePlain : Obligations.OperandRegistersArePlain := by
  intro s v hb
  exact ⟨step_hostWrite .argLo v hb, step_hostWrite .argHi v hb, rfl, rfl, rfl, rfl,
    fun _ _ hidle hd => writeCmd_args hidle hd, fun _ hstep hm => step_args hstep hm⟩

/-! ## STAT and CURSORS -/

/-- Every bit of STAT (R39). -/
theorem stat_getLsbD (s : State) (j : Nat) (hj : j < 32) :
    s.stat.getLsbD j = ((decide (j = 0) && s.busy) || (decide (j = 1) && s.fcEn) || (decide (j = 2) && s.rtsShadow)
      || (decide (j = 3) && s.timerStarted) || (decide (j = 4) && s.empty) || (decide (j = 5) && s.cmdLost)
      || (decide (j = 6) && s.full)) := by
  simp only [State.stat, BitVec.getLsbD_or, bitAt_getLsbD _ _ _ hj]

theorem stat_reserved (s : State) : s.stat.extractLsb' 7 25 = 0#25 := by
  apply BitVec.eq_of_getLsbD_eq
  intro k hk
  rw [BitVec.getLsbD_extractLsb', stat_getLsbD _ _ (by omega)]
  grind

/-- After reset STAT shows EMPTY, and FC_EN when FLOW_CONTROL is 1 (R39, R200). -/
theorem stat_applyReset {s : State} (hn : 2 ≤ s.params.ringSlots) :
    (applyReset s).stat = if s.params.flowControl then 0x12#32 else 0x10#32 := by
  have hcount : (applyReset s).count = 0 := by simp [State.count, applyReset, State.atReset]
  have hfull : (applyReset s).full = false := by
    simp only [State.full, hcount, beq_eq_false_iff_ne]
    show 0 ≠ s.params.ringSlots - 1
    omega
  have hempty : (applyReset s).empty = true := by simp [State.empty, applyReset, State.atReset]
  simp only [State.stat, hfull, hempty]
  cases hf : s.params.flowControl <;> simp [applyReset, State.atReset, bitAt, hf]

/-- Settles O10, bit by bit. -/
theorem statReadsItsFields : Obligations.StatReadsItsFields := by
  intro s
  refine ⟨?_, ?_, ?_, ?_, ?_, ?_, ?_, stat_reserved s, hostRegAt_offset _ .stat, rfl, stat_applyReset⟩ <;>
    rw [stat_getLsbD _ _ (by omega)] <;> simp [State.empty, State.full, Params.usable]

theorem cursors_low (s : State) : s.cursors.extractLsb' 0 16 = s.wp := by
  apply BitVec.eq_of_getLsbD_eq
  intro k hk
  simp only [State.cursors, BitVec.getLsbD_extractLsb', BitVec.getLsbD_or, BitVec.getLsbD_shiftLeft, BitVec.getLsbD_setWidth]
  grind

theorem cursors_high (s : State) : s.cursors.extractLsb' 16 16 = s.rp := by
  apply BitVec.eq_of_getLsbD_eq
  intro k hk
  have hwp : s.wp.getLsbD (16 + k) = false := BitVec.getLsbD_of_ge _ _ (by omega)
  simp only [State.cursors, BitVec.getLsbD_extractLsb', BitVec.getLsbD_or, BitVec.getLsbD_shiftLeft, BitVec.getLsbD_setWidth]
  grind

/-- Settles O11, half by half. -/
theorem cursorsReadsBothCursors : Obligations.CursorsReadsBothCursors := by
  intro s
  exact ⟨cursors_low s, cursors_high s, rfl, hostRegAt_offset _ .cursors,
    by simp [State.cursors, applyReset, State.atReset]⟩

/-! ## CMD -/

/-- What every word written while idle latches, legal or not (R78, log 8). -/
theorem acceptWord_latch (w : Word) (s : State) :
    (acceptWord w s).cOp = Word.op w ∧ (acceptWord w s).cT = Word.t w ∧ (acceptWord w s).cB0 = Word.b0 w
    ∧ (acceptWord w s).cB1 = Word.b1 w ∧ (acceptWord w s).cArg = packArg s.argHi s.argLo
    ∧ (acceptWord w s).cmdLost = false ∧ (acceptWord w s).argLo = s.argLo ∧ (acceptWord w s).argHi = s.argHi := by
  cases hd : decode w <;> simp [acceptWord, hd]

/-- Settles O7: while busy the write is lost, and while idle it is `acceptWord`. -/
theorem cmdWriteIsAcceptedRejectedOrLost : Obligations.CmdWriteIsAcceptedRejectedOrLost := by
  intro s w hb hm
  have hframe := hostWrite_frame .cmd w s.afterMove
  refine ⟨hostWrite .cmd w s.afterMove, step_hostWrite .cmd w hb hm, fun hbusy => ?_, fun hidle => ?_⟩
  · simp [hostWrite, writeCmd, hbusy]
  · have haccept : hostWrite .cmd w s.afterMove = acceptWord w s.afterMove := by simp [hostWrite, writeCmd, hidle]
    rw [haccept] at hframe ⊢
    obtain ⟨hop, ht, hb0, hb1, harg, hlost, hlo, hhi⟩ := acceptWord_latch w s.afterMove
    refine ⟨hop, ht, hb0, hb1, by rw [harg]; exact packArg_high _ _, by rw [harg]; exact packArg_low _ _, hlost,
      fun i hd => ?_, fun e hd => ?_, ?_⟩
    · refine ⟨by simp [acceptWord, hd], by simp [acceptWord, hd, SameResponse], ?_⟩
      cases i <;> simp [acceptWord, hd, firstLabel]
    · simp [acceptWord, hd, illegal_response, hidle]
    · simp [SameRing, SameDeadline, SameUartTemps, SameTimerTemps, SameRts, BusSaw, hframe, hlo, hhi]

end Sys2Proof.Machine

/-! The UART's and MCR's readiness: what the labels that access DATA or write MCR know, and what a step does there
(R53, R54, R64, R151, R152). -/

namespace Sys2Proof.Machine

/-- A host write leaves the label, or puts a command's first label (R78). -/
theorem hostWrite_step (r : HostReg) (v : Word) (s : State) :
    (hostWrite r v s).step = s.step ∨ ∃ i, (hostWrite r v s).step = firstLabel i := by
  rcases hostWrite_cases r v s with
    ⟨-, e⟩ | ⟨-, e⟩ | ⟨-, -, e⟩ | ⟨-, -, i, -, e⟩ | ⟨-, -, _, -, e⟩ | ⟨-, -, -, e⟩ <;> rw [e]
  case inr.inr.inr.inl => exact .inr ⟨i, rfl⟩
  all_goals exact .inl (by simp)

/-! ## The labels that access DATA -/

/-- The edges into the labels that read DATA or lead to its write: the LSR read with DR = 1, the gate of WRITE_BYTE, and
its CTS test (R141, R151). -/
theorem microStep_to_dataAccess {s t : State} (h : MicroStep s t) (ht : t.step ∈ .wb5 :: .wb6 :: dataLabels) :
    (t.step ∈ dataLabels ∧ t.tLsr.getLsbD 0 = true)
    ∨ (t.step ∉ dataLabels ∧ t.tLsr.getLsbD 0 = false ∧ t.tLsr.getLsbD 5 = true ∧ (t.step = .wb6 → t.fcEn = false))
    ∨ (s.step = .wb5 ∧ t.step = .wb6 ∧ t.tLsr = s.tLsr ∧ t.tMsr.getLsbD 4 = true) := by
  cases h with
  | drainMore l he hdr =>
    have hl : l ∈ dataLabels := (by decide : ∀ e ∈ lsrEdges, e.2 ∈ dataLabels) _ he
    exact .inl ⟨hl, by simpa using hdr⟩
  | gate l _ hdr hl =>
    rcases hl with ⟨-, rfl⟩ | ⟨hthre, -, rfl⟩ | ⟨hthre, hoff, rfl⟩
    · simp [dataLabels] at ht
    · exact .inr (.inl ⟨by simp [dataLabels], hdr, hthre, nofun⟩)
    · exact .inr (.inl ⟨by simp [dataLabels], hdr, hthre, fun _ => hoff⟩)
  | ctsOn hs hcts => exact .inr (.inr (by simp [hs, hcts]))
  | start _ he | deadline _ he | waitMore _ he | drainData _ he | drainDataStop _ he | drainMcrRead _ he
  | drainMcrWrite _ he | drained _ he | popResume _ he | resumeRead _ he =>
    exact absurd ht (target_notMem_of_edge he (by decide))
  | begin _ _ hl => rcases hl with ⟨-, rfl, -⟩ | ⟨-, rfl, -⟩ | ⟨-, -, rfl, -⟩ <;> simp [dataLabels] at ht
  | popRetry _ _ _ _ hl | resumeRetry _ _ _ hl => rcases hl with ⟨-, rfl⟩ | ⟨-, rfl⟩ <;> simp [dataLabels] at ht
  | _ => simp [dataLabels] at ht

/-- At a label that neither reads DATA nor leads to its write the invariant says nothing. -/
theorem uartInv_of_step {s : State} (h : s.step ∉ .wb5 :: .wb6 :: dataLabels) : UartInv s := by
  simp only [List.mem_cons, not_or] at h
  obtain ⟨h5, h6, hdata⟩ := h
  exact ⟨fun hs => absurd hs hdata, fun hs => absurd hs (not_or.2 ⟨h5, h6⟩), fun hs => absurd hs h6⟩

theorem UartInv.microStep {s t : State} (h : UartInv s) (hm : MicroStep s t) : UartInv t := by
  by_cases ht : t.step ∈ .wb5 :: .wb6 :: dataLabels
  case neg => exact uartInv_of_step ht
  rcases microStep_to_dataAccess hm ht with ⟨hl, hdr⟩ | ⟨hl, hdr, hthre, hoff⟩ | ⟨hs, hl, hlsr, hcts⟩
  · refine ⟨fun _ => hdr, fun hw => ?_, fun hw => ?_⟩
    · rcases hw with hw | hw <;> simp [hw, dataLabels] at hl
    · simp [hw, dataLabels] at hl
  · exact ⟨fun hd => absurd hd hl, fun _ => ⟨hdr, hthre⟩, fun hw hon => by simp [hoff hw] at hon⟩
  · obtain ⟨-, hgate, -⟩ := h
    exact ⟨fun hd => by simp [hl, dataLabels] at hd, fun _ => by rw [hlsr]; exact hgate (.inl hs), fun _ _ => hcts⟩

theorem UartInv.hostWrite {s : State} (r : HostReg) (v : Word) (h : UartInv s) : UartInv (hostWrite r v s) := by
  rcases hostWrite_step r v s with hs | ⟨i, hs⟩
  · simpa [UartInv, hs] using h
  · exact uartInv_of_step (by rw [hs]; cases i <;> simp [firstLabel, dataLabels])

/-- Settles O23: the LSR read, the gate and the CTS test are the only ways to a label that accesses DATA. -/
theorem everyStepKeepsTheUartInvariant : Obligations.EveryStepKeepsTheUartInvariant := by
  intro s t
  exact step_keeps (fun _ _ h => h) (fun _ _ h hm => h.microStep hm) (fun r v _ h => h.hostWrite r v)
    (fun s _ => uartInv_of_step (s := applyReset s) (by decide : Label.idle ∉ _))

/-- DATA is read at the DATA labels of the drains and written at WB.6 (R53). -/
theorem microStep_dataTx {s t : State} {tx : BusTx} (h : MicroStep s t) (hsaw : BusSaw [tx] s t) (hreg : tx.reg = .data) :
    s.step ∈ dataLabels ∧ tx.dir = .read ∨ s.step = .wb6 ∧ tx.dir = .write := by
  cases h with
  | drainData _ he | drainDataStop _ he =>
    have htx : tx = busTx s.params .read .data (s.nextData.setWidth 32) :=
      busSaw_singleton_unique hsaw (by simp [BusSaw, State.traceWith])
    exact .inl ⟨source_mem_of_edge he (by decide), by simp [htx, busTx]⟩
  | transmit hs =>
    have htx : tx = busTx s.params .write .data (s.cB0.setWidth 32) :=
      busSaw_singleton_unique hsaw (by simp [BusSaw, State.traceWith])
    exact .inr ⟨hs, by simp [htx, busTx]⟩
  | start | begin =>
    simp only [BusSaw, goto_fields, startTimer_trace, State.traceWith, setTicks_fields] at hsaw
    split at hsaw
    · simp at hsaw
    · simp only [List.append_cancel_left_eq, List.cons.injEq, and_true] at hsaw
      simp [← hsaw, busTx] at hreg
  | push | pop | nearlyFull | below | beginForever | popResume | popDone | popRetry => simp [BusSaw] at hsaw
  | _ =>
    simp only [BusSaw, goto_fields, finish_fields, formDeadline_fields, readCnt_fields, readLsr_fields, readMsr_fields,
      readMcr_fields, writeRts_fields, State.traceWith, List.append_cancel_left_eq, List.cons.injEq, and_true] at hsaw
    simp [← hsaw, busTx] at hreg

/-- A step that makes a transaction is a micro-step (R10). -/
theorem microStep_of_tx {s t : State} {tx : BusTx} (hstep : step s = .next t) (hsaw : BusSaw [tx] s t) :
    MicroStep s.afterMove t := by
  have hquiet : ¬ BusSaw [] s t := fun hq => not_busSaw_singleton_of_quiet hq tx hsaw
  rw [busSaw_nil_iff] at hquiet
  rcases step_edges hstep with
    ⟨-, hmicro | ⟨-, rfl⟩⟩ | ⟨r, ⟨_, -, -, rfl⟩ | ⟨_, v, -, -, rfl⟩⟩ | ⟨-, rfl⟩
  · exact hmicro
  · exact absurd rfl hquiet
  · exact absurd rfl hquiet
  · exact absurd (hostWrite_trace r v s.afterMove) hquiet
  · exact absurd rfl hquiet

/-- Settles O24: at the labels that access DATA the UART invariant says that it is ready. -/
theorem dataIsAccessedOnlyWhenReady : Obligations.DataIsAccessedOnlyWhenReady := by
  intro s t hinv hstep tx hsaw hreg
  obtain ⟨hread, hgate, hcts⟩ := hinv
  rcases microStep_dataTx (microStep_of_tx hstep hsaw) hsaw hreg with ⟨hs, hdir⟩ | ⟨hs, hdir⟩
  · exact ⟨fun _ => hread hs, fun hw => by simp [hdir] at hw⟩
  · obtain ⟨hdr, hthre⟩ := hgate (.inr hs)
    exact ⟨fun hr => by simp [hdir] at hr, fun _ => ⟨hdr, hthre, hcts hs⟩⟩

/-! ## The labels that write MCR -/

/-- The write half of an RTS update is entered by its read half alone (R143). -/
theorem microStep_to_rtsWrite {s t : State} (h : MicroStep s t) (ht : t.step ∈ rtsWriteLabels) :
    t.tMcr = t.env.mcr := by
  cases h with
  | drainMcrRead | resumeRead => simp
  | start _ he | deadline _ he | waitMore _ he | drainMore _ he | drainData _ he | drainDataStop _ he
  | drainMcrWrite _ he | drained _ he | popResume _ he => exact absurd ht (target_notMem_of_edge he (by decide))
  | begin _ _ hl => rcases hl with ⟨-, rfl, -⟩ | ⟨-, rfl, -⟩ | ⟨-, -, rfl, -⟩ <;> simp [rtsWriteLabels] at ht
  | gate _ _ _ hl => rcases hl with ⟨-, rfl⟩ | ⟨-, -, rfl⟩ | ⟨-, -, rfl⟩ <;> simp [rtsWriteLabels] at ht
  | popRetry _ _ _ _ hl | resumeRetry _ _ _ hl => rcases hl with ⟨-, rfl⟩ | ⟨-, rfl⟩ <;> simp [rtsWriteLabels] at ht
  | _ => simp [rtsWriteLabels] at ht

theorem McrInv.hostWrite {s : State} (r : HostReg) (v : Word) (h : McrInv s) : McrInv (hostWrite r v s) := by
  intro ht
  rcases hostWrite_step r v s with hs | ⟨i, hs⟩ <;> rw [hs] at ht
  · simpa using h ht
  · cases i <;> simp [firstLabel, rtsWriteLabels] at ht

/-- Settles O25: only the read half enters the write half, and no other agent writes MCR or moves the label. -/
theorem everyStepKeepsTheMcrInvariant : Obligations.EveryStepKeepsTheMcrInvariant := by
  intro s t h hstep
  have ha : McrInv s.afterMove := h
  rcases step_edges hstep with
    ⟨-, hmicro | ⟨-, rfl⟩⟩ | ⟨r, ⟨_, -, -, rfl⟩ | ⟨_, v, -, -, rfl⟩⟩ | ⟨-, rfl⟩
  · exact microStep_to_rtsWrite hmicro
  · exact ha
  · exact ha
  · exact ha.hostWrite r v
  · intro ht
    exact absurd ht (by decide : Label.idle ∉ rtsWriteLabels)

/-- The write half writes back what the read half read, but for RTS, and so sets the shadow (R143). -/
theorem microStep_rts {s t : State} (h : MicroStep s t) :
    SameRts s t ∨ s.step ∈ rtsWriteLabels ∧ t.env.mcr = rtsByte t.rtsShadow s.tMcr := by
  cases h with
  | drainMcrWrite _ he => exact .inr ⟨source_mem_of_edge he (by decide), by simp⟩
  | resumeDone hs => exact .inr ⟨by rcases hs with hs | ⟨hs, -⟩ <;> simp [hs, rtsWriteLabels], by simp⟩
  | resumeRetry _ hs => exact .inr ⟨by simp [hs, rtsWriteLabels], by simp⟩
  | _ => exact .inl (by simp [SameRts])

/-- `set_rts` writes bit 1 of MCR and keeps every other (R143). -/
theorem rtsByte_getLsbD (v : Bool) (m : Byte) {k : Nat} (hk : k < 8) :
    (rtsByte v m).getLsbD k = if k = 1 then v else m.getLsbD k := by
  cases v <;> interval_cases k <;> simp [rtsByte]

theorem rtsByte_others (v : Bool) (m : Byte) : rtsByte v m &&& 0xFD#8 = m &&& 0xFD#8 := by
  apply BitVec.eq_of_getLsbD_eq
  intro k hk
  rw [BitVec.getLsbD_and, BitVec.getLsbD_and, rtsByte_getLsbD v m hk]
  split
  · rename_i hbit
    simp [hbit]
  · rfl

/-- Settles O26: a step leaves MCR, or is the write half of an RTS update of the value that MCR holds. -/
theorem onlyTheRtsBitOfMcrChanges : Obligations.OnlyTheRtsBitOfMcrChanges := by
  intro s t hinv hstep
  have hsame : t.env.mcr = s.env.mcr
      ∨ s.step ∈ rtsWriteLabels ∧ t.env.mcr = rtsByte t.rtsShadow s.tMcr := by
    rcases step_edges hstep with
      ⟨-, hmicro | ⟨-, rfl⟩⟩ | ⟨r, ⟨_, -, -, rfl⟩ | ⟨_, v, -, -, rfl⟩⟩ | ⟨-, rfl⟩
    · exact (microStep_rts hmicro).imp_left And.right
    · exact .inl rfl
    · exact .inl rfl
    · exact .inl (by simp)
    · exact .inl rfl
  rcases hsame with hsame | ⟨hs, hmcr⟩
  · exact ⟨by rw [hsame], fun hne => absurd hsame hne⟩
  · refine ⟨by rw [hmcr, rtsByte_others, hinv hs], fun _ => ⟨hs, ?_⟩⟩
    rw [hmcr, rtsByte_getLsbD _ _ (by omega), if_pos rfl]

end Sys2Proof.Machine

/-! The host's access contract, and the placing of a command word (R59, R78). -/

namespace Sys2Proof.Machine

/-! ## Accesses outside the contract -/

/-- Inside the window every multiple of 4 is a register's offset (R35). -/
theorem exists_offset_eq {k : Nat} (hk : k ≤ 0x1C) (h4 : k % 4 = 0) : ∃ r : HostReg, r.offset = k := by
  have hcases : k = 0x00 ∨ k = 0x04 ∨ k = 0x08 ∨ k = 0x0C ∨ k = 0x10 ∨ k = 0x14 ∨ k = 0x18 ∨ k = 0x1C := by omega
  rcases hcases with rfl | rfl | rfl | rfl | rfl | rfl | rfl | rfl
  exacts [⟨.cmd, rfl⟩, ⟨.argLo, rfl⟩, ⟨.argHi, rfl⟩, ⟨.rsp, rfl⟩, ⟨.rspV0, rfl⟩, ⟨.rspV1, rfl⟩, ⟨.stat, rfl⟩,
    ⟨.cursors, rfl⟩]

/-- Outside the window there is no register (R35, R59). -/
theorem hostRegAt_eq_none {p : Params} {addr : Nat} (h : addr < p.hostBase ∨ p.hostBase + 0x1C < addr) :
    hostRegAt p addr = none := by
  cases hr : hostRegAt p addr with
  | none => rfl
  | some r =>
    have hoff : r.offset ≤ 0x1C := by cases r <;> simp [HostReg.offset]
    have haddr := hostRegAt_some hr
    omega

/-- The step of a host access is the checked access, whether it reads or writes (R59). -/
theorem step_checkedAccess {s : State} {a : HostAccess} {addr bytes : Nat}
    (ha : a = .read addr bytes ∨ ∃ v, a = .write addr bytes v) (hm : s.nextMove = .host a) :
    ∃ act, step s = checkedAccess addr bytes act s.afterMove := by
  rcases ha with rfl | ⟨v, rfl⟩
  · exact ⟨hostReadMove, by simp [step, hm, takeMove, hostAccess]⟩
  · exact ⟨fun r => hostWrite r v, by simp [step, hm, takeMove, hostAccess]⟩

/-- An access inside the contract is not refused (R59). -/
theorem checkedAccess_of_wellFormed {addr bytes : Nat} {s : State} (act : HostReg → State → State)
    (hb : s.params.hostBase % 4 = 0) (h : hostAccessWellFormed s.params addr bytes = true) :
    ∃ t, checkedAccess addr bytes act s = .next t := by
  simp only [hostAccessWellFormed, Bool.and_eq_true, decide_eq_true_eq] at h
  obtain ⟨⟨⟨rfl, h4⟩, hlow⟩, hhigh⟩ := h
  obtain ⟨r, hr⟩ := exists_offset_eq (k := addr - s.params.hostBase) (by omega) (by omega)
  obtain rfl : addr = s.params.hostBase + r.offset := by omega
  exact ⟨act r s, by simp [checkedAccess, h4, hostRegAt_offset]⟩

/-- Settles O12: the three tests of `checkedAccess` in their order, and the window as the registers' offsets. -/
theorem hostAccessOutsideTheContractIsRefused : Obligations.HostAccessOutsideTheContractIsRefused := by
  intro s a addr bytes hb ha hm
  obtain ⟨act, hstep⟩ := step_checkedAccess ha hm
  rw [hstep]
  refine ⟨fun hok => checkedAccess_of_wellFormed act hb hok, fun hwidth => ?_, fun hwidth halign => ?_,
    fun hwidth halign hout => ?_⟩
  · simp [checkedAccess, hwidth]
  · simp [checkedAccess, hwidth, halign]
  · simp [checkedAccess, hwidth, halign, hostRegAt_eq_none hout]

/-! ## A placed word -/

/-- A command word is its own table word (R82). -/
theorem tableWord_toNat (w : Word) : tableWord 32 w.toNat = some w := by
  have hw : w.toNat % 2 ^ 32 = w.toNat := Nat.mod_eq_of_lt w.isLt
  rw [tableWord, hw, if_pos w.isLt, BitVec.ofNat_toNat, BitVec.setWidth_eq]

/-- A legal word's acceptance makes its command the running one (R78). -/
theorem acceptWord_running {w : Word} {i : Instr} (h : decode w = .ok i) (s : State) :
    (acceptWord w s).running = some i := by
  simp only [acceptWord, h]
  exact running_of_started h s

/-- Settles O6: the placed state has the controller to move, and taking that move off gives the accepting state. -/
theorem placedWordRunsNext : Obligations.PlacedWordRunsNext := by
  intro s w i hd
  have hplaced : s.withFetchWord 32 w.toNat = placeWord w s := by simp only [State.withFetchWord, tableWord_toNat]
  refine ⟨by simp [decodeTableWord, tableWord_toNat, hd, Except.toOption], ?_⟩
  rw [hplaced]
  exact step_of_controller_running (s := placeWord w s) rfl (acceptWord_running hd _)

end Sys2Proof.Machine

/-! The micro-steps of the drain, and of READ_NB and READ_TO around it (R141 to R143, R153 to R157). -/

namespace Sys2Proof.Machine

/-! ## What each label runs -/

/-- POLL's micro-steps (R144). -/
theorem exec_poll (s : State) :
    (s.step = .poll1 → exec .poll s = .next (drainLsr pollDrain (fun u => finish (.status u.tLsr) u) s))
    ∧ (s.step = .poll2 → exec .poll s = .next (drainData pollDrain s))
    ∧ (s.step = .poll3 → exec .poll s = .next (drainMcrRead pollDrain s))
    ∧ (s.step = .poll4 → exec .poll s = .next (drainMcrWrite pollDrain s)) := by
  refine ⟨?_, ?_, ?_, ?_⟩ <;> intro hs <;> simp only [exec, execPoll, hs]

/-- The drain of WRITE_BYTE (R151). -/
theorem exec_writeByte (b : Byte) (s : State) :
    (s.step = .wb1 → exec (.writeByte b) s = .next (drainLsr wbDrain writeGate s))
    ∧ (s.step = .wb2 → exec (.writeByte b) s = .next (drainData wbDrain s))
    ∧ (s.step = .wb3 → exec (.writeByte b) s = .next (drainMcrRead wbDrain s))
    ∧ (s.step = .wb4 → exec (.writeByte b) s = .next (drainMcrWrite wbDrain s)) := by
  refine ⟨?_, ?_, ?_, ?_⟩ <;> intro hs <;> simp only [exec, execWriteByte, hs]

/-- The drain of READ_NB (R154). -/
theorem exec_readNb (s : State) :
    (s.step = .rn1 → exec .readNb s = .next (drainLsr rnDrain (goto .rn5) s))
    ∧ (s.step = .rn2 → exec .readNb s = .next (drainData rnDrain s))
    ∧ (s.step = .rn3 → exec .readNb s = .next (drainMcrRead rnDrain s))
    ∧ (s.step = .rn4 → exec .readNb s = .next (drainMcrWrite rnDrain s)) := by
  refine ⟨?_, ?_, ?_, ?_⟩ <;> intro hs <;> simp only [exec, execReadNb, hs]

/-- The drain of READ_TO (R157). -/
theorem exec_readTo (b : Bool) (s : State) :
    (s.step = .rt3 → exec (.readTo b) s = .next (drainLsr rtDrain (goto .rt7) s))
    ∧ (s.step = .rt4 → exec (.readTo b) s = .next (drainData rtDrain s))
    ∧ (s.step = .rt5 → exec (.readTo b) s = .next (drainMcrRead rtDrain s))
    ∧ (s.step = .rt6 → exec (.readTo b) s = .next (drainMcrWrite rtDrain s)) := by
  refine ⟨?_, ?_, ?_, ?_⟩ <;> intro hs <;> simp only [exec, execReadTo, hs]

/-- READ_TO's deadline: it is formed before the drain and checked after it (R157). -/
theorem exec_readTo_deadline (b : Bool) (s : State) :
    (s.step = .rt1 → exec (.readTo b) s = .next (readToBegin b s))
    ∧ (s.step = .rt2 → exec (.readTo b) s = .next (readToDeadline s))
    ∧ (s.step = .rt10 → exec (.readTo b) s = .next (readToCheck s)) := by
  refine ⟨?_, ?_, ?_⟩ <;> intro hs <;> simp only [exec, execReadTo, hs]

/-- A command that pops at `lp`, updates RTS at `lr` and `lw` when the resume check asks for it, and then does `after`;
`t` is its T field (R153). -/
structure PopsAt (i : Instr) (lp lr lw : Label) (after : State → State) (t : Bool) : Prop where
  pop : ∀ s : State, s.step = lp → exec i s = .next (popAndResume lr after s)
  mcrRead : ∀ s : State, s.step = lr → exec i s = .next (goto lw (readMcr s))
  mcrWrite : ∀ s : State, s.step = lw → exec i s = .next (after (writeRts true s))
  running : ∀ s : State, s.cT = t → s.step = lp ∨ s.step = lr ∨ s.step = lw → s.running = some i
  trace : ∀ s : State, (after s).env.trace = s.env.trace

theorem readNb_popsAt (t : Bool) : PopsAt .readNb .rn5 .rn6 .rn7 finishRecord t where
  pop s hs := by simp only [exec, execReadNb, hs]
  mcrRead s hs := by simp only [exec, execReadNb, hs]
  mcrWrite s hs := by simp only [exec, execReadNb, hs]
  running s _ hs := by rcases hs with hs | hs | hs <;> simp [State.running, hs]
  trace _ := rfl

/-- READ_TO ends with a record (R157). -/
theorem afterRead_some (b : Bool) {s : State} {r : Slot} (h : s.tRes = some r) :
    afterRead b s = finish (.record (some r)) s := by
  simp [afterRead, finishRecord, h]

/-- Without one it goes on at the deadline check, or with T = 0 at the next read (R157). -/
theorem afterRead_none (b : Bool) {s : State} (h : s.tRes = none) :
    afterRead b s = goto (if b then .rt10 else .rt3) s := by
  cases b <;> simp [afterRead, h]

theorem afterRead_trace (b : Bool) (s : State) : (afterRead b s).env.trace = s.env.trace := by
  cases hr : s.tRes with
  | some r => simp [afterRead_some b hr]
  | none => simp [afterRead_none b hr]

theorem readTo_popsAt (t : Bool) : PopsAt (.readTo t) .rt7 .rt8 .rt9 (afterRead t) t where
  pop s hs := by simp only [exec, execReadTo, hs]
  mcrRead s hs := by simp only [exec, execReadTo, hs]
  mcrWrite s hs := by simp only [exec, execReadTo, hs]
  running s ht hs := by rcases hs with hs | hs | hs <;> simp [State.running, hs, ht]
  trace := afterRead_trace t

/-! ## The drain -/

/-- The LSR read with a byte waiting goes on at the DATA read (R141). -/
theorem drainLsr_more (d : DrainLabels) (exit : State → State) {s : State} (h : s.nextLsr.getLsbD 0 = true) :
    drainLsr d exit s = goto d.data (readLsr s) := by
  simp only [drainLsr, readLsr_fields, h, if_true]

/-- The LSR read with none waiting takes the exit (R141). -/
theorem drainLsr_done (d : DrainLabels) (exit : State → State) {s : State} (h : s.nextLsr.getLsbD 0 = false) :
    drainLsr d exit s = exit (readLsr s) := by
  simp only [drainLsr, readLsr_fields, h, Bool.false_eq_true, if_false]

/-- The stop watermark: flow control is on and at most STOP_FREE slots are free in `t` (R142). -/
abbrev StopDue (s t : State) : Prop := s.fcEn = true ∧ s.params.ringSlots - 1 - t.count ≤ s.params.stopFree

/-- The DATA read pushes the pair and goes on at the RTS update exactly at the stop watermark (R141, R142). -/
theorem drainData_eq (d : DrainLabels) (s : State) :
    drainData d s
      = goto (if StopDue s (pushRecord s.tLsr s.nextData (readData s)) then d.mcrRead else d.lsr)
          (pushRecord s.tLsr s.nextData (readData s)) := by
  simp only [drainData, readData_fields, pushRecord_frame, State.nearlyFull, State.free, Params.usable, Bool.and_eq_true,
    decide_eq_true_eq]
  split <;> rfl

/-- A push looks at the ring and the parameters alone (R101, R102). -/
theorem SameRing.push {s t : State} (h : SameRing s t) (hp : t.params = s.params) (st d : Byte) :
    SameRing (pushRecord st d s) (pushRecord st d t) := by
  obtain ⟨hbuf, hwp, hrp, hresets⟩ := h
  simp only [SameRing, pushRecord, hbuf, hwp, hrp, hp]
  cases s.params.overwriteMode <;> simp [hresets]

theorem rtsByte_false (m : Byte) : rtsByte false m = m &&& 0xFD#8 := by
  simp [rtsByte]

theorem rtsByte_true (m : Byte) : rtsByte true m = (m &&& 0xFD#8) ||| 0x02#8 := rfl

/-- A command that embeds the drain `d`: at `d`'s labels it makes the drain's micro-steps, with an exit of its own. -/
def Embeds (i : Instr) (d : DrainLabels) : Prop :=
  ∀ s : State, (s.step = d.lsr → ∃ exit, exec i s = .next (drainLsr d exit s))
    ∧ (s.step = d.data → exec i s = .next (drainData d s))
    ∧ (s.step = d.mcrRead → exec i s = .next (drainMcrRead d s))
    ∧ (s.step = d.mcrWrite → exec i s = .next (drainMcrWrite d s))

/-- The four commands that embed a drain (R141). -/
theorem embeds_drain :
    Embeds .poll pollDrain ∧ (∀ b, Embeds (.writeByte b) wbDrain) ∧ Embeds .readNb rnDrain
    ∧ ∀ b, Embeds (.readTo b) rtDrain := by
  refine ⟨fun s => ?_, fun b s => ?_, fun s => ?_, fun b s => ?_⟩
  · obtain ⟨hlsr, hrest⟩ := exec_poll s
    exact ⟨fun hs => ⟨_, hlsr hs⟩, hrest⟩
  · obtain ⟨hlsr, hrest⟩ := exec_writeByte b s
    exact ⟨fun hs => ⟨_, hlsr hs⟩, hrest⟩
  · obtain ⟨hlsr, hrest⟩ := exec_readNb s
    exact ⟨fun hs => ⟨_, hlsr hs⟩, hrest⟩
  · obtain ⟨hlsr, hrest⟩ := exec_readTo b s
    exact ⟨fun hs => ⟨_, hlsr hs⟩, hrest⟩

/-- Settles O48: each of the four commands embeds a drain, and a drain's micro-steps are the four operations above. -/
theorem drainMicroSteps : Obligations.DrainMicroSteps := by
  intro i l0 l1 l2 l3 s hi
  have hembeds : Embeds i ⟨l0, l1, l2, l3⟩ := by
    obtain ⟨hpoll, hwb, hrn, hrt⟩ := embeds_drain
    rcases hi with ⟨rfl, hl⟩ | ⟨⟨b, rfl⟩, hl⟩ | ⟨rfl, hl⟩ | ⟨⟨b, rfl⟩, hl⟩ <;> cases hl
    exacts [hpoll, hwb b, hrn, hrt b]
  obtain ⟨hlsr, hdata, hread, hwrite⟩ := hembeds s
  refine ⟨fun hs hdr => ?_, fun hs => ?_, fun hs => ?_, fun hs => ?_⟩
  · obtain ⟨exit, he⟩ := hlsr hs
    refine ⟨goto l1 (readLsr s), by rw [he, drainLsr_more _ _ hdr], ?_⟩
    simp [GoesOnAt, SameResponse, BusSaw, State.traceWith, SameRing, SameRts, SameDeadline, SameLatch, SameHostSide]
  · have hsame : SameRing s (readData s) := by simp [SameRing]
    obtain ⟨-, hwp, hrp, -⟩ := hsame.push (by simp) s.tLsr s.nextData
    refine ⟨_, (hdata hs).trans (congrArg _ (drainData_eq _ s)), by simp, by simp, by simp, hwp, hrp, ?_, ⟨rfl, ?_⟩, ?_⟩
    · simp [BusSaw, State.traceWith]
    · simp [SameResponse]
    · simp [SameRts, SameDeadline, SameLatch, SameHostSide]
  · refine ⟨goto l3 (readMcr s), hread hs, ?_⟩
    simp [GoesOnAt, SameResponse, BusSaw, State.traceWith, SameRing, SameRts, SameDeadline, SameLatch, SameHostSide]
  · refine ⟨goto l0 (writeRts false s), hwrite hs, ?_⟩
    simp [GoesOnAt, SameResponse, BusSaw, State.traceWith, SameRing, SameDeadline, SameLatch, SameHostSide, SameUartTemps,
      rtsByte_false]

/-! ## The pop and the resume check -/

/-- What the pop into `t_res` does to the ring, and its frame (R103, R154, R157). -/
def PopEffect (s t : State) : Prop :=
  t.tRes = s.unread.head? ∧ t.unread = s.unread.tail ∧ t.buf = s.buf ∧ t.wp = s.wp ∧ BusSaw [] s t ∧ SameRts s t
    ∧ SameDeadline s t ∧ SameLatch s t ∧ SameHostSide s t ∧ t.timerStarted = s.timerStarted

theorem CursorInv.popToTemp_effect {s : State} (h : CursorInv s) : PopEffect s (popToTemp s) := by
  have hunread : (popToTemp s).unread = (popRecord s).unread := rfl
  rw [PopEffect, hunread, h.pop_unread, ← h.pop_result]
  simp [BusSaw, SameRts, SameDeadline, SameLatch, SameHostSide]

/-- The resume check is on the records that the pop leaves (R153). -/
theorem CursorInv.resumeDue_popToTemp {s : State} (h : CursorInv s) :
    (popToTemp s).resumeDue = true ↔ s.fcEn = true ∧ s.unread.tail.length < s.params.resumeLevel := by
  obtain ⟨-, hunread, -⟩ := h.popToTemp_effect
  rw [← hunread, unread_length]
  simp [State.resumeDue, State.below]

/-- The pop, then the RTS update when the resume check asks for it, else what the command does next (R153). -/
theorem CursorInv.popAndResume_effect {s : State} (h : CursorInv s) (l : Label) {after : State → State}
    (hafter : PopEffect s (after (popToTemp s))) :
    PopEffect s (popAndResume l after s)
    ∧ (s.fcEn = true → (popAndResume l after s).unread.length < s.params.resumeLevel →
        popAndResume l after s = goto l (popToTemp s))
    ∧ (s.fcEn = false ∨ s.params.resumeLevel ≤ (popAndResume l after s).unread.length →
        popAndResume l after s = after (popToTemp s)) := by
  have hdue := h.resumeDue_popToTemp
  cases hr : (popToTemp s).resumeDue with
  | true =>
    have hgoto : popAndResume l after s = goto l (popToTemp s) := by simp [popAndResume, hr]
    have heffect : PopEffect s (goto l (popToTemp s)) := h.popToTemp_effect
    obtain ⟨-, hunread, -⟩ := id heffect
    obtain ⟨hon, hlow⟩ := hdue.1 hr
    rw [hgoto, hunread]
    refine ⟨heffect, fun _ _ => rfl, fun hno => ?_⟩
    simp only [hon, Bool.true_eq_false, false_or] at hno
    omega
  | false =>
    have hgo : popAndResume l after s = after (popToTemp s) := by simp [popAndResume, hr]
    obtain ⟨-, hunread, -⟩ := id hafter
    rw [hgo, hunread]
    exact ⟨hafter, fun hon hlow => absurd (hdue.2 ⟨hon, hlow⟩) (by simp [hr]), fun _ => rfl⟩

theorem CursorInv.finishRecord_effect {s : State} (h : CursorInv s) : PopEffect s (finishRecord (popToTemp s)) :=
  h.popToTemp_effect

theorem CursorInv.afterRead_effect {s : State} (h : CursorInv s) (b : Bool) :
    PopEffect s (afterRead b (popToTemp s)) := by
  cases hr : (popToTemp s).tRes with
  | some r => rw [afterRead_some b hr]; exact h.popToTemp_effect
  | none => rw [afterRead_none b hr]; exact h.popToTemp_effect

/-! ## READ_NB and READ_TO -/

/-- Settles O51, label by label. -/
theorem readNbPopsAndResumes : Obligations.ReadNbPopsAndResumes := by
  rintro s ⟨hcur, -, -⟩
  obtain ⟨h1, -⟩ := exec_readNb s
  obtain ⟨h5, h6, h7, -, -⟩ := readNb_popsAt s.cT
  refine ⟨fun hs hdr => ?_, fun hs => ?_, fun hs => ?_, fun hs => ?_⟩
  · refine ⟨goto .rn5 (readLsr s), by rw [h1 hs, drainLsr_done _ _ hdr], ?_⟩
    simp [GoesOnAt, SameResponse, BusSaw, State.traceWith, SameRing, SameRts, SameDeadline, SameLatch, SameHostSide]
  · obtain ⟨⟨hres, hunread, hbuf, hwp, hsaw, hframe⟩, hdue, hdone⟩ :=
      hcur.popAndResume_effect .rn6 hcur.finishRecord_effect
    refine ⟨_, h5 s hs, hres, hunread, hbuf, hwp, hsaw, fun hon hlow => ?_, fun hno => ?_, hframe⟩
    · rw [hdue hon hlow]
      simp [GoesOnAt, SameResponse]
    · rw [hdone hno]
      simp [FinishedWith, finishRecord, record_eq, hcur.pop_result]
  · refine ⟨goto .rn7 (readMcr s), h6 s hs, ?_⟩
    simp [GoesOnAt, SameResponse, BusSaw, State.traceWith, SameRing, SameRts, SameDeadline, SameLatch, SameHostSide]
  · refine ⟨finishRecord (writeRts true s), h7 s hs, ?_⟩
    simp [FinishedWith, finishRecord, record_eq, BusSaw, State.traceWith, SameRing, SameDeadline, SameLatch, SameHostSide,
      SameUartTemps, rtsByte_true]

/-- What the start micro-step adds to the bus trace (R121). -/
theorem startTimer_trace_append (s : State) :
    (startTimer s).env.trace
      = s.env.trace ++ if s.timerStarted then [] else [busTx s.params .write .cntCtrl s.params.cntStartWord] := by
  rw [startTimer_trace]
  cases hon : s.timerStarted <;> simp [State.traceWith]

/-- Settles O52, label by label. -/
theorem readToReadsFirstThenChecksTheDeadline : Obligations.ReadToReadsFirstThenChecksTheDeadline := by
  rintro b s ⟨hcur, -, -⟩
  obtain ⟨h1, h2, h10⟩ := exec_readTo_deadline b s
  obtain ⟨h3, -⟩ := exec_readTo b s
  obtain ⟨h7, h8, h9, -, -⟩ := readTo_popsAt b
  refine ⟨fun hs => ⟨_, h1 hs, ?_⟩, fun hs => ⟨_, h2 hs, ?_⟩, fun hs hdr => ⟨goto .rt7 (readLsr s), ?_⟩,
    fun hs => ⟨_, h7 s hs, ?_⟩, fun hs => ⟨_, h8 s hs, ?_⟩, fun hs => ⟨_, h9 s hs, ?_⟩, fun hs => ⟨_, h10 hs, ?_⟩⟩
  · cases b with
    | false =>
      simp [readToBegin, GoesOnAt, SameResponse, BusSaw, SameRing, SameRts, SameDeadline, SameLatch, SameHostSide]
    | true =>
      simp [readToBegin, GoesOnAt, SameResponse, BusSaw, SameRing, SameRts, SameDeadline, SameLatch, SameHostSide,
        startTimer_trace_append, State.secondTicks, State.seconds, State.argLow]
  · simp [readToDeadline, GoesOnAt, SameResponse, BusSaw, State.traceWith, SameRing, SameRts, SameLatch, SameHostSide]
  · simp [h3 hs, drainLsr_done _ _ hdr, GoesOnAt, SameResponse, BusSaw, State.traceWith, SameRing, SameDeadline]
  · obtain ⟨⟨hres, hunread, hbuf, hwp, hsaw, hrts, hdl, hlatch, hhost, -⟩, hdue, hdone⟩ :=
      hcur.popAndResume_effect .rt8 (hcur.afterRead_effect b)
    have htmp : (popToTemp s).tRes = s.unread.head? := by rw [← hcur.pop_result]; simp
    refine ⟨hres, hunread, hbuf, hwp, hsaw, hrts, hdl, hlatch, hhost, fun hon hlow => ?_, fun hno => ⟨fun r hr => ?_,
      fun hempty => ?_⟩⟩
    · rw [hdue hon hlow]
      simp [GoesOnAt, SameResponse]
    · rw [hdone hno, afterRead_some b (htmp.trans hr)]
      simp [FinishedWith, record_eq]
    · rw [hdone hno, afterRead_none b (by rw [htmp, hempty]; rfl)]
      simp [GoesOnAt, SameResponse]
  · simp [GoesOnAt, SameResponse, BusSaw, State.traceWith, SameRing, SameRts, SameDeadline]
  · cases hr : s.tRes with
    | some r =>
      rw [afterRead_some b (by simpa using hr)]
      simp [FinishedWith, record_eq, BusSaw, State.traceWith, SameRing, SameDeadline, rtsByte_true]
    | none =>
      rw [afterRead_none b (by simpa using hr)]
      simp [GoesOnAt, SameResponse, BusSaw, State.traceWith, SameRing, SameDeadline, rtsByte_true]
  · cases hd : deadlineReached s.nextCnt s.dlStart s.dlEnd <;>
      simp [readToCheck, State.deadlinePassed, hd, FinishedWith, Response.zero, GoesOnAt, SameResponse, BusSaw,
        State.traceWith, SameRing, SameRts, SameDeadline]

end Sys2Proof.Machine

/-! Runs of one command with no host move between its micro-steps: the RTS update and the answer of READ_NB and READ_TO
on an empty buffer (R153, R158). -/

namespace Sys2Proof.Machine

/-! ## Runs -/

/-- A run in two parts. -/
theorem runSteps_add {j : Nat} (k : Nat) {s t : State} (h : runSteps j s = .next t) :
    runSteps (j + k) s = runSteps k t := by
  induction j generalizing s with
  | zero =>
    cases h
    rw [Nat.zero_add]
  | succ j ih =>
    cases hs : step s with
    | next u =>
      rw [runSteps_succ _ hs] at h
      rw [Nat.add_right_comm, runSteps_succ _ hs]
      exact ih h
    | fault r | refused r => simp [runSteps, Host.Core.run, core, hs] at h

/-- `k` steps lead from `s` to `t`, and the bus sees exactly `txs` meanwhile. -/
def Reaches (k : Nat) (txs : List BusTx) (s t : State) : Prop := runSteps k s = .next t ∧ BusSaw txs s t

theorem Reaches.trans {j k : Nat} {txs txs' : List BusTx} {s t u : State} (h : Reaches j txs s t)
    (h' : Reaches k txs' t u) : Reaches (j + k) (txs ++ txs') s u := by
  obtain ⟨hrun, hsaw⟩ := h
  obtain ⟨hrun', hsaw'⟩ := h'
  refine ⟨(runSteps_add k hrun).trans hrun', ?_⟩
  rw [BusSaw, hsaw', hsaw, List.append_assoc]

/-- With no move listed, one micro-step of the running command. -/
theorem Reaches.exec {i : Instr} {txs : List BusTx} {s t : State} (hm : s.env.moves = []) (hr : s.running = some i)
    (he : exec i s = .next t) (hsaw : BusSaw txs s t) : Reaches 1 txs s t :=
  ⟨runSteps_succ 0 ((step_of_running hm hr).trans he), hsaw⟩

/-! ## The pop of an empty buffer -/

theorem popToTemp_empty {s : State} (h : s.wp = s.rp) : popToTemp s = { s with tRes := none } := by
  simp [popToTemp, popRecord, popResult, h]

/-- On an empty buffer the resume check is due exactly when flow control is on and RESUME_LEVEL is not 0 (R153). -/
theorem popAndResume_empty {s : State} (h : s.wp = s.rp) (l : Label) (after : State → State) :
    popAndResume l after s
      = if s.fcEn && decide (0 < s.params.resumeLevel) then goto l { s with tRes := none }
        else after { s with tRes := none } := by
  have hcount : s.count = 0 := by simp [State.count, h]
  have hdue : State.resumeDue { s with tRes := none } = (s.fcEn && decide (s.count < s.params.resumeLevel)) := rfl
  simp only [popAndResume, popToTemp_empty h, hdue, hcount]

/-- What `set_rts(1)` writes (R143): MCR with bit 1 set. -/
theorem rtsByte_true_eq_or (m : Byte) : rtsByte true m = m ||| 0x02#8 := by
  apply BitVec.eq_of_getLsbD_eq
  intro k hk
  rw [rtsByte_getLsbD true m hk]
  interval_cases k <;> simp

/-- The state that the RTS update after an empty pop hands on. -/
def emptyResumed (lr lw : Label) (s : State) : State :=
  writeRts true (goto lw (readMcr (goto lr { s with tRes := none })))

section
variable {i : Instr} {lp lr lw : Label} {after : State → State} {t : Bool} {s : State}

/-- The resume check not due: the pop of an empty buffer is one micro-step (R153). -/
theorem PopsAt.empty_notDue (h : PopsAt i lp lr lw after t) (ht : s.cT = t) (hs : s.step = lp) (hm : s.env.moves = [])
    (hempty : s.wp = s.rp) (hno : (s.fcEn && decide (0 < s.params.resumeLevel)) = false) :
    Reaches 1 [] s (after { s with tRes := none }) := by
  refine .exec hm (h.running s ht (.inl hs)) ?_ (busSaw_nil_iff.2 (h.trace _))
  rw [h.pop s hs, popAndResume_empty hempty, hno]
  rfl

/-- The resume check due: the pop, then the read and the write of MCR, which sets RTS alone (R143, R153). -/
theorem PopsAt.empty_due (h : PopsAt i lp lr lw after t) (ht : s.cT = t) (hs : s.step = lp) (hm : s.env.moves = [])
    (hempty : s.wp = s.rp) (hdue : (s.fcEn && decide (0 < s.params.resumeLevel)) = true) :
    Reaches 3 [busTx s.params .read .mcr (s.env.mcr.setWidth 32),
      busTx s.params .write .mcr ((s.env.mcr ||| 0x02#8).setWidth 32)] s (after (emptyResumed lr lw s)) := by
  have hpop : Reaches 1 [] s (goto lr { s with tRes := none }) := by
    refine .exec hm (h.running s ht (.inl hs)) ?_ (busSaw_nil_iff.2 rfl)
    rw [h.pop s hs, popAndResume_empty hempty, hdue]
    rfl
  have hread : Reaches 1 [busTx s.params .read .mcr (s.env.mcr.setWidth 32)] (goto lr { s with tRes := none })
      (goto lw (readMcr (goto lr { s with tRes := none }))) :=
    .exec hm (h.running _ ht (.inr (.inl rfl))) (h.mcrRead _ rfl) (by simp [BusSaw, State.traceWith])
  have hwrite : Reaches 1 [busTx s.params .write .mcr ((s.env.mcr ||| 0x02#8).setWidth 32)]
      (goto lw (readMcr (goto lr { s with tRes := none }))) (after (emptyResumed lr lw s)) :=
    .exec hm (h.running _ ht (.inr (.inr rfl))) (h.mcrWrite _ rfl)
      (by simp [emptyResumed, BusSaw, State.traceWith, h.trace, rtsByte_true_eq_or])
  exact (hpop.trans hread).trans hwrite

end

/-! ## READ_NB and READ_TO on an empty buffer -/

/-- Settles O15: RN.1 finds nothing waiting, and RN.5 to RN.7 are the pop of an empty buffer with the resume check due. -/
theorem readNbOnEmptyBufferRaisesRts : Obligations.ReadNbOnEmptyBufferRaisesRts := by
  intro s l ls hs hm hon hempty hlevel hlsr hdr
  obtain rfl : s.nextLsr = l := by simp [State.nextLsr, hlsr]
  have hdrain : Reaches 1 [busTx s.params .read .lsr (s.nextLsr.setWidth 32)] s (goto .rn5 (readLsr s)) := by
    obtain ⟨h1, -⟩ := exec_readNb s
    exact .exec (i := .readNb) hm (by simp [State.running, hs]) (by rw [h1 hs, drainLsr_done _ _ hdr])
      (by simp [BusSaw, State.traceWith])
  have hpop := (readNb_popsAt s.cT).empty_due (s := goto .rn5 (readLsr s)) rfl rfl hm hempty
    (by simp only [goto_fields, readLsr_fields, hon, Bool.true_and, decide_eq_true_eq]; omega)
  obtain ⟨hrun, hsaw⟩ := hdrain.trans hpop
  exact ⟨_, hrun, ⟨rfl, rfl, rfl, rfl, rfl⟩, rfl, rtsByte_true_eq_or _, hsaw⟩

/-- A deadline of no ticks ends where it starts (R123). -/
theorem deadlineEnd_zero (c : Word) : deadlineEnd c 0 = c := by
  simp [deadlineEnd]

/-- A deadline of no ticks is reached by every sample (R125, R158). -/
theorem deadlineReached_self (c d : Word) : deadlineReached c d d = true := by
  simp [deadlineReached]

/-- READ_TO 0 with nothing waiting, at its pop: the counter is started, the deadline formed, LSR read once (R157). -/
def readToZeroAtPop (s : State) : State :=
  goto .rt7 (readLsr (goto .rt3 (formDeadline 0 (readCnt (goto .rt2 (startTimer (setTicks 0 s)))))))

theorem readToZeroAtPop_fields (s : State) :
    (readToZeroAtPop s).params = s.params ∧ (readToZeroAtPop s).step = .rt7 ∧ (readToZeroAtPop s).cT = s.cT
    ∧ (readToZeroAtPop s).fcEn = s.fcEn ∧ (readToZeroAtPop s).wp = s.wp ∧ (readToZeroAtPop s).rp = s.rp
    ∧ (readToZeroAtPop s).dlStart = s.nextCnt ∧ (readToZeroAtPop s).dlEnd = s.nextCnt
    ∧ (readToZeroAtPop s).env.moves = s.env.moves ∧ (readToZeroAtPop s).env.mcr = s.env.mcr
    ∧ (readToZeroAtPop s).env.cntIn = s.env.cntIn.tail := by
  simp [readToZeroAtPop, deadlineEnd_zero, State.nextCnt]

/-- RT.1 to RT.3 of READ_TO 0 with nothing waiting (R157). -/
theorem reaches_readToZeroAtPop {s : State} {c : Word} {cs : List Word} {l : Byte} {ls : List Byte} (hs : s.step = .rt1)
    (ht : s.cT = true) (hzero : s.cArg.extractLsb' 0 32 = 0#32) (hm : s.env.moves = []) (hcnt : s.env.cntIn = c :: cs)
    (hlsr : s.env.lsrIn = l :: ls) (hdr : l.getLsbD 0 = false) :
    Reaches 3 ((if s.timerStarted then [] else [busTx s.params .write .cntCtrl s.params.cntStartWord])
      ++ [busTx s.params .read .cntVal c] ++ [busTx s.params .read .lsr (l.setWidth 32)]) s (readToZeroAtPop s) := by
  have hticks : s.secondTicks = 0 := by simp [State.secondTicks, State.seconds, State.argLow, hzero]
  have hbegin : Reaches 1 (if s.timerStarted then [] else [busTx s.params .write .cntCtrl s.params.cntStartWord]) s
      (goto .rt2 (startTimer (setTicks 0 s))) := by
    obtain ⟨h1, -⟩ := exec_readTo_deadline true s
    exact .exec (i := .readTo true) hm (by simp [State.running, hs, ht]) (by rw [h1 hs, readToBegin, hticks]; rfl)
      (by simp [BusSaw, startTimer_trace_append])
  obtain ⟨u, hu⟩ : ∃ u, u = goto .rt2 (startTimer (setTicks 0 s)) := ⟨_, rfl⟩
  have hup : u.params = s.params := by simp [hu]
  have hucnt : u.nextCnt = c := by simp [hu, State.nextCnt, hcnt]
  have hdeadline : Reaches 1 [busTx s.params .read .cntVal c] u (goto .rt3 (formDeadline 0 (readCnt u))) := by
    obtain ⟨-, h2, -⟩ := exec_readTo_deadline true u
    refine .exec (i := .readTo true) (by simp [hu, hm]) (by simp [State.running, hu, ht]) ?_
      (by simp [BusSaw, State.traceWith, hucnt, hup])
    rw [h2 (by simp [hu])]
    simp [readToDeadline, hu]
  obtain ⟨v, hv⟩ : ∃ v, v = goto .rt3 (formDeadline 0 (readCnt u)) := ⟨_, rfl⟩
  have hvp : v.params = s.params := by simp [hv, hup]
  have hvlsr : v.nextLsr = l := by simp [hv, hu, State.nextLsr, hlsr]
  have hdrain : Reaches 1 [busTx s.params .read .lsr (l.setWidth 32)] v (goto .rt7 (readLsr v)) := by
    obtain ⟨h3, -⟩ := exec_readTo true v
    refine .exec (i := .readTo true) (by simp [hv, hu, hm]) (by simp [State.running, hv, hu, ht]) ?_
      (by simp [BusSaw, State.traceWith, hvlsr, hvp])
    rw [h3 (by simp [hv]), drainLsr_done _ _ (by rw [hvlsr, hdr])]
  rw [← hu] at hbegin
  rw [← hv] at hdeadline
  have hend : readToZeroAtPop s = goto .rt7 (readLsr v) := by rw [hv, hu, readToZeroAtPop]
  rw [hend]
  exact (hbegin.trans hdeadline).trans hdrain

/-- READ_TO's resume check on an empty buffer is due (R153). -/
abbrev EmptyResumeDue (s : State) : Prop := (s.fcEn && decide (0 < s.params.resumeLevel)) = true

/-- READ_TO with T = 1 goes from the pop of an empty buffer to the deadline check, through the RTS update when it is due
(R153, R157). -/
theorem readToEmpty_reaches_check {s : State} (hs : s.step = .rt7) (ht : s.cT = true) (hm : s.env.moves = [])
    (hempty : s.wp = s.rp) :
    ∃ t, Reaches (if EmptyResumeDue s then 3 else 1)
        (if EmptyResumeDue s then [busTx s.params .read .mcr (s.env.mcr.setWidth 32),
          busTx s.params .write .mcr ((s.env.mcr ||| 0x02#8).setWidth 32)] else []) s t
      ∧ t.step = .rt10 ∧ t.cT = true ∧ t.params = s.params ∧ t.dlStart = s.dlStart ∧ t.dlEnd = s.dlEnd
      ∧ t.env.moves = [] ∧ t.env.cntIn = s.env.cntIn := by
  have hpops := readTo_popsAt true
  by_cases hdue : EmptyResumeDue s
  · have hrun := hpops.empty_due ht hs hm hempty hdue
    rw [afterRead_none true (s := emptyResumed .rt8 .rt9 s) rfl] at hrun
    rw [if_pos hdue, if_pos hdue]
    exact ⟨_, hrun, by simp [emptyResumed, ht, hm]⟩
  · have hrun := hpops.empty_notDue ht hs hm hempty (eq_false_of_ne_true hdue)
    rw [afterRead_none true (s := { s with tRes := none }) rfl] at hrun
    rw [if_neg hdue, if_neg hdue]
    exact ⟨_, hrun, rfl, ht, rfl, rfl, rfl, hm, rfl⟩

/-- RT.10 with a deadline of no ticks finishes with None, whatever the sample is (R157, R158). -/
theorem reaches_readToCheck {s : State} (hs : s.step = .rt10) (ht : s.cT = true) (hm : s.env.moves = [])
    (hd : s.dlEnd = s.dlStart) :
    Reaches 1 [busTx s.params .read .cntVal s.nextCnt] s (finish .zero (readCnt s)) := by
  obtain ⟨-, -, h10⟩ := exec_readTo_deadline true s
  refine .exec (i := .readTo true) hm (by simp [State.running, hs, ht]) ?_ (by simp [BusSaw, State.traceWith])
  rw [h10 hs]
  simp [readToCheck, State.deadlinePassed, hd, deadlineReached_self]

/-- Settles O59: one attempt to read, the pop of an empty buffer with its RTS update when it is due, one check. -/
theorem readToZeroFinishesAfterOneAttempt : Obligations.ReadToZeroFinishesAfterOneAttempt := by
  intro s c0 c1 cs l ls hs ht hzero hm hempty hcnt hlsr hdr
  obtain ⟨hp, hstep, hcT, hfc, hwp, hrp, hstart, hend, hmoves, hmcr, hcntIn⟩ := readToZeroAtPop_fields s
  have hc0 : s.nextCnt = c0 := by simp [State.nextCnt, hcnt]
  have hread := reaches_readToZeroAtPop hs ht hzero hm hcnt hlsr hdr
  obtain ⟨v, hpop, hv, hvT, hvp, hvstart, hvend, hvm, hvcnt⟩ :=
    readToEmpty_reaches_check hstep (hcT.trans ht) (hmoves.trans hm) (by rw [hwp, hrp, hempty])
  have hc1 : v.nextCnt = c1 := by simp [State.nextCnt, hvcnt, hcntIn, hcnt]
  have hcheck := reaches_readToCheck hv hvT hvm (by rw [hvend, hvstart, hend, hstart])
  rw [hc1, hvp, hp] at hcheck
  simp only [EmptyResumeDue, hfc, hp, hmcr] at hpop
  obtain ⟨hrun, hsaw⟩ := (hread.trans hpop).trans hcheck
  refine ⟨finish .zero (readCnt v), ?_, ⟨rfl, rfl, rfl, rfl, rfl⟩, by simp [hvstart, hstart, hc0],
    by simp [hvend, hend, hc0], ?_⟩
  · rw [← hrun]
    split <;> rfl
  · simpa using hsaw

end Sys2Proof.Machine

/-! POLL's rounds, one for each byte waiting, and the waiting sleeps: both end under R57's premises (R145, R173). -/

namespace Sys2Proof.Machine

/-! ## One round of POLL -/

/-- One byte taken by POLL (R141 to R144): it is pushed with the LSR value read before it, and RTS is cleared exactly when
at most STOP_FREE slots are free then. -/
structure PollRound (s t : State) : Prop where
  step : t.step = .poll1
  moves : t.env.moves = []
  lsrIn : t.env.lsrIn = s.env.lsrIn.tail
  dataIn : t.env.dataIn = s.env.dataIn.tail
  params : t.params = s.params
  fcEn : t.fcEn = s.fcEn
  ring : ∃ d, SameRing (pushRecord s.nextLsr d s) t
  stopped : StopDue s t → t.rtsShadow = false ∧ t.env.mcr = s.env.mcr &&& 0xFD#8
  notStopped : ¬ StopDue s t → SameRts s t

/-- A micro-step of POLL. -/
theorem runSteps_poll {s t : State} (hs : s.step ∈ [.poll1, .poll2, .poll3, .poll4]) (hm : s.env.moves = [])
    (he : exec .poll s = .next t) : runSteps 1 s = .next t := by
  have hr : s.running = some .poll := by
    simp only [List.mem_cons, List.not_mem_nil, or_false] at hs
    rcases hs with hs | hs | hs | hs <;> simp [State.running, hs]
  exact runSteps_succ 0 ((step_of_running hm hr).trans he)

/-- The state after POLL.1 and POLL.2 before the label is chosen: the byte is pushed (R141). -/
def pollPushed (s : State) : State :=
  pushRecord s.nextLsr (goto .poll2 (readLsr s)).nextData (readData (goto .poll2 (readLsr s)))

theorem pollPushed_fields (s : State) :
    (pollPushed s).params = s.params ∧ (pollPushed s).fcEn = s.fcEn ∧ (pollPushed s).rtsShadow = s.rtsShadow
    ∧ (pollPushed s).env.moves = s.env.moves ∧ (pollPushed s).env.lsrIn = s.env.lsrIn.tail
    ∧ (pollPushed s).env.dataIn = s.env.dataIn.tail ∧ (pollPushed s).env.mcr = s.env.mcr := by
  simp [pollPushed]

theorem pollPushed_ring (s : State) : ∃ d, SameRing (pushRecord s.nextLsr d s) (pollPushed s) := by
  have hsame : SameRing s (readData (goto .poll2 (readLsr s))) := by simp [SameRing]
  exact ⟨_, hsame.push (by simp) s.nextLsr _⟩

/-- POLL.1 with a byte waiting, then POLL.2. -/
theorem runSteps_pollPushed {s : State} (hs : s.step = .poll1) (hm : s.env.moves = [])
    (hdr : s.nextLsr.getLsbD 0 = true) :
    runSteps 2 s = .next (goto (if StopDue s (pollPushed s) then .poll3 else .poll1) (pollPushed s)) := by
  obtain ⟨h1, -⟩ := exec_poll s
  obtain ⟨-, h2, -⟩ := exec_poll (goto .poll2 (readLsr s))
  have hlsr := runSteps_poll (by simp [hs]) hm ((h1 hs).trans (congrArg _ (drainLsr_more pollDrain _ hdr)))
  have hdata := runSteps_poll (by simp) (by simp [hm]) ((h2 rfl).trans (congrArg _ (drainData_eq pollDrain _)))
  exact (runSteps_add 1 hlsr).trans hdata

/-- POLL.3 and POLL.4 clear RTS (R143). -/
theorem runSteps_pollStop {s : State} (hs : s.step = .poll3) (hm : s.env.moves = []) :
    runSteps 2 s = .next (goto .poll1 (writeRts false (goto .poll4 (readMcr s)))) := by
  obtain ⟨-, -, h3, -⟩ := exec_poll s
  obtain ⟨-, -, -, h4⟩ := exec_poll (goto .poll4 (readMcr s))
  have hread := runSteps_poll (by simp [hs]) hm (h3 hs)
  have hwrite := runSteps_poll (s := goto .poll4 (readMcr s)) (by simp) (by simp [hm]) (h4 rfl)
  exact (runSteps_add 1 hread).trans hwrite

/-- A round takes two micro-steps, or four with the RTS update. -/
theorem exists_pollRound {s : State} (hs : s.step = .poll1) (hm : s.env.moves = []) (hdr : s.nextLsr.getLsbD 0 = true) :
    ∃ k t, k ≤ 4 ∧ runSteps k s = .next t ∧ PollRound s t := by
  have hrun := runSteps_pollPushed hs hm hdr
  obtain ⟨hp, hfc, hshadow, hmoves, hlsr, hdata, hmcr⟩ := pollPushed_fields s
  obtain ⟨d, hring⟩ := pollPushed_ring s
  by_cases hstop : StopDue s (pollPushed s)
  · rw [if_pos hstop] at hrun
    have hrts := runSteps_pollStop (s := goto .poll3 (pollPushed s)) rfl (by simp [hmoves, hm])
    obtain ⟨t, ht⟩ : ∃ t, t = goto .poll1 (writeRts false (goto .poll4 (readMcr (goto .poll3 (pollPushed s))))) :=
      ⟨_, rfl⟩
    rw [← ht] at hrts
    have hsame : SameRing (pollPushed s) t := by simp [ht, SameRing]
    have hcount : t.count = (pollPushed s).count := count_of_same (by simp [ht]) hsame
    refine ⟨4, t, le_refl 4, (runSteps_add 2 hrun).trans hrts, ?_⟩
    exact
      { step := by simp [ht], moves := by simp [ht, hmoves, hm], lsrIn := by simp [ht, hlsr],
        dataIn := by simp [ht, hdata], params := by simp [ht, hp], fcEn := by simp [ht, hfc],
        ring := ⟨d, by simpa [ht, SameRing] using hring⟩, stopped := fun _ => by simp [ht, hmcr, rtsByte_false],
        notStopped := fun hno => absurd hstop (by rwa [StopDue, hcount] at hno) }
  · rw [if_neg hstop] at hrun
    refine ⟨2, _, by omega, hrun, ?_⟩
    exact
      { step := rfl, moves := by simp [hmoves, hm], lsrIn := by simp [hlsr], dataIn := by simp [hdata], params := by simp [hp],
        fcEn := by simp [hfc], ring := ⟨d, hring⟩, stopped := fun h => absurd h hstop,
        notStopped := fun _ => ⟨hshadow, hmcr⟩ }

/-! ## The end of POLL -/

/-- POLL's response is the last LSR value in STATUS (R81, R144). -/
theorem status_response (l : Byte) : Response.status l = ⟨l.setWidth 32 <<< 8, 0#32, 0#32⟩ := by
  simp [Response.status, packRsp, bitAt]

/-- POLL.1 with none waiting finishes (R144). -/
theorem runSteps_pollDone {s : State} (hs : s.step = .poll1) (hm : s.env.moves = []) (hdr : s.nextLsr.getLsbD 0 = false) :
    runSteps 1 s = .next (finish (.status s.nextLsr) (readLsr s)) := by
  obtain ⟨h1, -⟩ := exec_poll s
  exact runSteps_poll (by simp [hs]) hm (by rw [h1 hs, drainLsr_done _ _ hdr]; simp)

/-- POLL's end under the premise, by induction on the LSR values to come: a value with DR = 1 costs one round and uses up
one of the `n`. -/
theorem poll_ends (ls : List Byte) : ∀ (s : State) (n : Nat), s.env.lsrIn = ls → s.step = .poll1 → s.env.moves = [] →
    UartQuiescesAfter n ls → n < ls.length →
    ∃ k t, k ≤ 4 * n + 1 ∧ runSteps k s = .next t
      ∧ ∃ l, l ∈ ls ∧ l.getLsbD 0 = false ∧ FinishedWith (l.setWidth 32 <<< 8) 0#32 0#32 t := by
  induction ls with
  | nil => exact fun s n _ _ _ _ hn => absurd hn (Nat.not_lt_zero n)
  | cons l ls ih =>
    intro s n hin hs hm hquiesce hn
    have hnext : s.nextLsr = l := by simp [State.nextLsr, hin]
    cases hdr : l.getLsbD 0 with
    | false =>
      have hdone := runSteps_pollDone hs hm (hnext ▸ hdr)
      exact ⟨1, _, by omega, hdone, l, List.mem_cons_self, hdr, by simp [FinishedWith, status_response, hnext]⟩
    | true =>
      obtain ⟨j, u, hj, hround, hu⟩ := exists_pollRound hs hm (hnext ▸ hdr)
      have hlen : (ls.filter (fun x => x.getLsbD 0)).length + 1 ≤ n := by
        simpa [UartQuiescesAfter, List.filter_cons, hdr] using hquiesce
      obtain ⟨m, rfl⟩ : ∃ m, n = m + 1 := ⟨n - 1, by omega⟩
      obtain ⟨k, t, hk, hrun, x, hx, hxdr, hfin⟩ :=
        ih u m (by rw [hu.lsrIn, hin, List.tail_cons]) hu.step hu.moves (Nat.le_of_succ_le_succ hlen)
          (Nat.lt_of_succ_lt_succ hn)
      exact ⟨j + k, t, by omega, (runSteps_add k hround).trans hrun, x, List.mem_cons_of_mem l hx, hxdr, hfin⟩

/-- Settles O57. -/
theorem pollEndsUnderUartQuiesces : Obligations.PollEndsUnderUartQuiesces := by
  intro s n hs hm hquiesce hn
  exact poll_ends s.env.lsrIn s n rfl hs hm hquiesce hn

/-! ## RTS over the rounds -/

section
variable {s t : State}

theorem PollRound.ringInv (h : PollRound s t) (hinv : RingInv s) : RingInv t := by
  obtain ⟨d, hring⟩ := h.ring
  exact (hinv.push s.nextLsr d).of_same (by simp [h.params]) hring

theorem PollRound.count (h : PollRound s t) (hinv : RingInv s) :
    t.count = min (s.count + 1) (s.params.ringSlots - 1) := by
  obtain ⟨d, hring⟩ := h.ring
  obtain ⟨hcur, -, -⟩ := hinv
  rw [count_of_same (by simp [h.params]) hring, hcur.push_count]

/-- A round drives RTS or leaves it, so it keeps every other bit of MCR. -/
theorem PollRound.mcr_others (h : PollRound s t) : t.env.mcr &&& 0xFD#8 = s.env.mcr &&& 0xFD#8 := by
  by_cases hstop : StopDue s t
  · rw [(h.stopped hstop).2, BitVec.and_assoc, BitVec.and_self]
  · rw [(h.notStopped hstop).2]

end

/-- Settles O56, by induction on the bytes waiting: the free slots only fall, so the last round decides on RTS. -/
theorem pollWithFlowControlDeassertsRts : Obligations.PollWithFlowControlDeassertsRts := by
  intro s ls ds rl rd l hinv hs hm hon hlsr hdata hlen hall hdr
  induction ls generalizing s ds with
  | nil =>
    obtain rfl := List.eq_nil_of_length_eq_zero hlen
    have hnext : s.nextLsr = l := by simp [State.nextLsr, hlsr]
    obtain ⟨hcur, -, -⟩ := hinv
    have hle := hcur.count_le
    have hcount : (finish (.status s.nextLsr) (readLsr s)).count = s.count :=
      count_of_same (by simp) (by simp [SameRing])
    refine ⟨1, _, by omega, runSteps_pollDone hs hm (hnext ▸ hdr), by simp [FinishedWith, status_response, hnext], ?_,
      by simp [hlsr], by simp [hdata], fun hne => absurd rfl hne, fun _ => by simp [SameRts]⟩
    rw [hcount, List.length_nil]
    omega
  | cons x ls ih =>
    obtain ⟨y, ds, rfl⟩ := List.exists_cons_of_length_eq_add_one hlen
    have hnext : s.nextLsr = x := by simp [State.nextLsr, hlsr]
    obtain ⟨j, u, hj, hround, hu⟩ := exists_pollRound hs hm (hnext ▸ hall x List.mem_cons_self)
    obtain ⟨k, t, hk, hrun, hfin, hcount, hlsrIn, hdataIn, hstop, hfree⟩ :=
      ih u ds (hu.ringInv hinv) hu.step hu.moves (hu.fcEn.trans hon) (by rw [hu.lsrIn, hlsr]; rfl)
        (by rw [hu.dataIn, hdata]; rfl) (Nat.succ.inj hlen) (fun z hz => hall z (List.mem_cons_of_mem x hz))
    have hucount := hu.count hinv
    rw [hu.params] at hcount hstop hfree
    rw [List.length_cons]
    refine ⟨j + k, t, by omega, (runSteps_add k hround).trans hrun, hfin, by omega, hlsrIn, hdataIn,
      fun _ hlow => ?_, fun hno => ?_⟩
    · by_cases hlast : ls = []
      · have hstopped : StopDue s u := ⟨hon, by simp only [hlast, List.length_nil] at hcount; omega⟩
        obtain ⟨hshadow, hmcr⟩ := hu.stopped hstopped
        obtain ⟨hshadow', hmcr'⟩ := hfree (.inl hlast)
        exact ⟨hshadow'.trans hshadow, hmcr'.trans hmcr⟩
      · obtain ⟨hshadow, hmcr⟩ := hstop hlast hlow
        exact ⟨hshadow, hmcr.trans hu.mcr_others⟩
    · have hhigh : s.params.stopFree < s.params.ringSlots - 1 - t.count := hno.resolve_left (List.cons_ne_nil x ls)
      obtain ⟨hshadow, hmcr⟩ := hu.notStopped fun hstopped => by
        obtain ⟨-, hlow⟩ := hstopped
        omega
      obtain ⟨hshadow', hmcr'⟩ := hfree (.inr hhigh)
      exact ⟨hshadow'.trans hshadow, hmcr'.trans hmcr⟩

/-! ## The waiting sleeps -/

/-- A sample of a waiting sleep (R171, R172). -/
theorem step_sleepWait {s : State} (hs : s.step = .sm3 ∨ s.step = .ss3) (hm : s.env.moves = []) :
    step s = .next (sleepWait s.step s) := by
  rcases hs with hs | hs
  · rw [step_of_running (i := .sleepMs) hm (by simp [State.running, hs])]
    simp only [exec, execSleepMs, hs]
  · rw [step_of_running (i := .sleepS) hm (by simp [State.running, hs])]
    simp only [exec, execSleepS, hs]

theorem reaches_sleepWait {s : State} (hs : s.step = .sm3 ∨ s.step = .ss3) (hm : s.env.moves = []) :
    Reaches 1 [busTx s.params .read .cntVal s.nextCnt] s
      (if deadlineReached s.nextCnt s.dlStart s.dlEnd then finish .zero (readCnt s) else goto s.step (readCnt s)) := by
  refine ⟨runSteps_succ 0 (step_sleepWait hs hm), ?_⟩
  split <;> simp [BusSaw, State.traceWith]

/-- A sample short of the deadline is followed by one further on: an advance of at most 2^32 - D cannot pass the start
again (R129, R173). -/
theorem elapsed_advances {a b start : Word} {d : Nat} (hshort : (a - start).toNat < d) (hpos : 1 ≤ (b - a).toNat)
    (hadv : (b - a).toNat ≤ 2 ^ 32 - d) : (a - start).toNat < (b - start).toNat := by
  have hsum : b - start = (a - start) + (b - a) := (sub_add_sub_cancel' a start b).symm
  have hlt : (a - start).toNat + (b - a).toNat < 2 ^ 32 := by omega
  rw [hsum, BitVec.toNat_add, Nat.mod_eq_of_lt hlt]
  omega

/-- A waiting sleep's end under the premise, by induction on the samples to come: each one short of the deadline is
further on than the one before. -/
theorem sleep_ends (cs : List Word) : ∀ (s : State) (c : Word) (dmax : Nat), s.env.cntIn = c :: cs →
    s.step = .sm3 ∨ s.step = .ss3 → s.env.moves = [] → CounterRuns dmax (c :: cs) →
    dmax ≤ 2 ^ 32 - (s.dlEnd - s.dlStart).toNat →
    (s.dlEnd - s.dlStart).toNat - (c - s.dlStart).toNat ≤ cs.length →
    ∃ k t, k ≤ (s.dlEnd - s.dlStart).toNat - (c - s.dlStart).toNat + 1 ∧ FinishedWith 0#32 0#32 0#32 t
      ∧ Reaches k (((c :: cs).take k).map (busTx s.params .read .cntVal)) s t := by
  induction cs with
  | nil =>
    intro s c dmax hin hs hm _ _ hlen
    obtain rfl : s.nextCnt = c := by simp [State.nextCnt, hin]
    have hr : deadlineReached s.nextCnt s.dlStart s.dlEnd = true :=
      decide_eq_true (Nat.le_of_sub_eq_zero (Nat.le_zero.1 hlen))
    have hsample := reaches_sleepWait hs hm
    rw [if_pos hr] at hsample
    exact ⟨1, _, by omega, ⟨rfl, rfl, rfl, rfl, rfl⟩, hsample⟩
  | cons c' cs ih =>
    intro s c dmax hin hs hm hruns hdmax hlen
    obtain rfl : s.nextCnt = c := by simp [State.nextCnt, hin]
    have hsample := reaches_sleepWait hs hm
    cases hr : deadlineReached s.nextCnt s.dlStart s.dlEnd with
    | true =>
      rw [if_pos hr] at hsample
      exact ⟨1, _, by omega, ⟨rfl, rfl, rfl, rfl, rfl⟩, hsample⟩
    | false =>
      rw [if_neg (Bool.eq_false_iff.1 hr)] at hsample
      have hshort : (s.nextCnt - s.dlStart).toNat < (s.dlEnd - s.dlStart).toNat := by
        simpa only [deadlineReached, decide_eq_false_iff_not, Nat.not_le] using hr
      obtain ⟨hpos, hadv, hrest⟩ := hruns
      have hfurther := elapsed_advances hshort hpos (hadv.trans hdmax)
      rw [List.length_cons] at hlen
      obtain ⟨k, t, hk, hfin, hrun⟩ := ih (goto s.step (readCnt s)) c' dmax (by simp [hin]) hs hm hrest hdmax
        (by simp only [goto_fields, readCnt_fields]; omega)
      simp only [goto_fields, readCnt_fields] at hk hrun
      refine ⟨1 + k, t, by omega, hfin, ?_⟩
      rw [Nat.add_comm 1 k, List.take_succ_cons, List.map_cons, Nat.add_comm k 1]
      exact hsample.trans hrun

/-- Settles O58. -/
theorem sleepEndsUnderCounterRuns : Obligations.SleepEndsUnderCounterRuns := by
  intro s dmax hs hm hruns hdmax hlen
  obtain ⟨c, cs, hin⟩ := List.exists_cons_of_length_pos (Nat.zero_lt_of_lt hlen)
  rw [hin, List.length_cons] at hlen
  obtain ⟨k, t, hk, hfin, hrun, hsaw⟩ := sleep_ends cs s c dmax hin hs hm (hin ▸ hruns) hdmax (by omega)
  exact ⟨k, t, by omega, hrun, hfin, hin ▸ hsaw⟩

end Sys2Proof.Machine

/-! The encoding: a word matches a row of R72 field by field, so decode and encode are inverse (R70 to R76). -/

namespace Sys2Proof

/-! ## Words by their fields -/

/-- Bit vectors that agree on a field agree on its bits. -/
theorem getLsbD_eq_of_extractLsb'_eq {m a n k : Nat} {w v : BitVec m} (h : w.extractLsb' a n = v.extractLsb' a n)
    (hk : a ≤ k ∧ k < a + n) : w.getLsbD k = v.getLsbD k := by
  have hbit := congrArg (fun x => x.getLsbD (k - a)) h
  have hlt : k - a < n := by omega
  simpa [hlt, Nat.add_sub_cancel' hk.1] using hbit

/-- The fields of R70 are the whole word. -/
theorem word_eq_iff_fields (w v : Word) : w = v ↔
    w.extractLsb' 0 4 = v.extractLsb' 0 4 ∧ w.extractLsb' 4 4 = v.extractLsb' 4 4 ∧ w.getLsbD 8 = v.getLsbD 8
    ∧ w.extractLsb' 9 7 = v.extractLsb' 9 7 ∧ w.extractLsb' 16 8 = v.extractLsb' 16 8
    ∧ w.extractLsb' 24 8 = v.extractLsb' 24 8 := by
  refine ⟨fun h => by simp [h], fun ⟨hop, hz0, ht, hz1, hb0, hb1⟩ => BitVec.eq_of_getLsbD_eq fun k hk => ?_⟩
  have hfield : k < 4 ∨ 4 ≤ k ∧ k < 8 ∨ k = 8 ∨ 9 ≤ k ∧ k < 16 ∨ 16 ≤ k ∧ k < 24 ∨ 24 ≤ k := by omega
  rcases hfield with hk | hk | rfl | hk | hk | hk
  · exact getLsbD_eq_of_extractLsb'_eq hop (by omega)
  · exact getLsbD_eq_of_extractLsb'_eq hz0 hk
  · exact ht
  · exact getLsbD_eq_of_extractLsb'_eq hz1 hk
  · exact getLsbD_eq_of_extractLsb'_eq hb0 hk
  · exact getLsbD_eq_of_extractLsb'_eq hb1 (by omega)

/-- A word matches a pattern under a mask exactly when each of its fields does (R72). -/
theorem match_iff_fields (w m p : Word) : w &&& m = p ↔
    w.extractLsb' 0 4 &&& m.extractLsb' 0 4 = p.extractLsb' 0 4
    ∧ w.extractLsb' 4 4 &&& m.extractLsb' 4 4 = p.extractLsb' 4 4
    ∧ (w.getLsbD 8 && m.getLsbD 8) = p.getLsbD 8
    ∧ w.extractLsb' 9 7 &&& m.extractLsb' 9 7 = p.extractLsb' 9 7
    ∧ w.extractLsb' 16 8 &&& m.extractLsb' 16 8 = p.extractLsb' 16 8
    ∧ w.extractLsb' 24 8 &&& m.extractLsb' 24 8 = p.extractLsb' 24 8 := by
  rw [word_eq_iff_fields]
  simp only [BitVec.extractLsb'_and, BitVec.getLsbD_and]

/-- The fields of a packed word (R70), in the form that `simp` brings them to. -/
@[simp] theorem packWord_fields (b1 b0 : Byte) (t : Bool) (op : BitVec 4) :
    (packWord b1 b0 t op).extractLsb' 0 4 = op ∧ (packWord b1 b0 t op).extractLsb' 4 4 = 0#4
    ∧ (packWord b1 b0 t op)[8] = t ∧ (packWord b1 b0 t op).extractLsb' 9 7 = 0#7
    ∧ (packWord b1 b0 t op).extractLsb' 16 8 = b0 ∧ (packWord b1 b0 t op).extractLsb' 24 8 = b1 :=
  ⟨packWord_op .., packWord_z0 .., packWord_t .., packWord_z1 .., packWord_b0 .., packWord_b1 ..⟩

theorem and_ones :
    (∀ x : BitVec 4, x &&& 15#4 = x) ∧ (∀ x : BitVec 7, x &&& 127#7 = x) ∧ ∀ x : Byte, x &&& 255#8 = x :=
  ⟨fun _ => BitVec.and_allOnes, fun _ => BitVec.and_allOnes, fun _ => BitVec.and_allOnes⟩

/-- A word that matches a row is the encoding of the row's command with the operands read from the word (R72). -/
theorem eq_encode_of_match {w : Word} {r : OpcodeRow} (hr : r ∈ opcodeRows) (h : w &&& r.mask = r.pattern) :
    w = encode (r.build w) := by
  rw [match_iff_fields] at h
  rw [word_eq_iff_fields]
  simp only [opcodeRows, List.mem_cons, List.not_mem_nil, or_false] at hr
  rcases hr with rfl | rfl | rfl | rfl | rfl | rfl | rfl | rfl | rfl | rfl | rfl | rfl | rfl <;>
    simpa [encode, Word.t, Word.b0, Word.b1, and_ones] using h

/-- The encoding of a command matches that command's row, which reads its operands back (R72). -/
theorem encode_matches (i : Instr) : ∃ r ∈ opcodeRows, encode i &&& r.mask = r.pattern ∧ r.build (encode i) = i := by
  cases i <;>
    simp [opcodeRows, encode, match_iff_fields, Word.t, Word.b0, Word.b1]

/-- Settles O2: a command's encoding matches the command's own row. -/
theorem decodeOfEncodeIsTheCommand : Obligations.DecodeOfEncodeIsTheCommand :=
  fun i => decode_ok_iff.2 (encode_matches i)

/-- Settles O3: the row that a legal word matches fixes every bit of it but the operands that the row's command carries. -/
theorem encodeOfDecodeIsTheWord : Obligations.EncodeOfDecodeIsTheWord := by
  intro w i h
  obtain ⟨r, hr, hm, rfl⟩ := decode_ok_iff.1 h
  exact (eq_encode_of_match hr hm).symm

theorem exists_decode_ok_iff_match {w : Word} :
    (∃ i, decode w = .ok i) ↔ ∃ r ∈ opcodeRows, w &&& r.mask = r.pattern := by
  simp only [decode_ok_iff]
  exact ⟨fun ⟨_, r, hr, hm, _⟩ => ⟨r, hr, hm⟩, fun ⟨r, hr, hm⟩ => ⟨r.build w, r, hr, hm, rfl⟩⟩

/-- Every encoding is well formed by its fields (R75). -/
theorem encode_wellFormed (i : Instr) : Word.wellFormed (encode i) = true := by
  cases i
  exacts [Laws.EncodeWellFormed.push _ _, Laws.EncodeWellFormed.pop, Laws.EncodeWellFormed.nearlyFull,
    Laws.EncodeWellFormed.below, Laws.EncodeWellFormed.now, Laws.EncodeWellFormed.deadlineAfter,
    Laws.EncodeWellFormed.reached, Laws.EncodeWellFormed.poll, Laws.EncodeWellFormed.writeByte _,
    Laws.EncodeWellFormed.readNb, Laws.EncodeWellFormed.readTo _, Laws.EncodeWellFormed.sleepMs,
    Laws.EncodeWellFormed.sleepS]

/-- The field reading of R75 as a proposition. -/
theorem Word.wellFormed_iff (w : Word) : Word.wellFormed w = true ↔
    (w.extractLsb' 0 4 ≠ 0x0#4 ∧ w.extractLsb' 0 4 ≠ 0xE#4 ∧ w.extractLsb' 0 4 ≠ 0xF#4)
    ∧ w.extractLsb' 4 4 = 0#4 ∧ w.extractLsb' 9 7 = 0#7
    ∧ (w.getLsbD 8 = true → w.extractLsb' 0 4 = 0xB#4)
    ∧ (w.extractLsb' 16 8 ≠ 0#8 → w.extractLsb' 0 4 = 0x1#4 ∨ w.extractLsb' 0 4 = 0x9#4)
    ∧ (w.extractLsb' 24 8 ≠ 0#8 → w.extractLsb' 0 4 = 0x1#4) := by
  unfold Word.wellFormed
  grind

/-- Every OP but the three reserved ones has a row (R71). -/
theorem exists_row_of_op : ∀ op : BitVec 4, op ≠ 0x0#4 ∧ op ≠ 0xE#4 ∧ op ≠ 0xF#4 →
    ∃ r ∈ opcodeRows, op = r.pattern.extractLsb' 0 4 := by
  decide

/-- A word that is well formed by its fields matches the row of its OP. -/
theorem exists_match_of_wellFormed {w : Word} (h : Word.wellFormed w = true) :
    ∃ r ∈ opcodeRows, w &&& r.mask = r.pattern := by
  obtain ⟨hassigned, hz0, hz1, ht, hb0, hb1⟩ := (Word.wellFormed_iff w).1 h
  obtain ⟨r, hr, hop⟩ := exists_row_of_op _ hassigned
  refine ⟨r, hr, (match_iff_fields _ _ _).2 ?_⟩
  rw [hop] at ht hb0 hb1 ⊢
  rw [hz0, hz1]
  clear hop hassigned h
  simp only [opcodeRows, List.mem_cons, List.not_mem_nil, or_false] at hr
  rcases hr with rfl | rfl | rfl | rfl | rfl | rfl | rfl | rfl | rfl | rfl | rfl | rfl | rfl <;>
    simp_all

/-- Settles O4: a word that decodes is an encoding, so well formed, and a well formed one matches the row of its OP. -/
theorem wordsAreLegalExactlyByTheirFields : Obligations.WordsAreLegalExactlyByTheirFields := by
  intro w
  refine ⟨exists_decode_ok_iff_match, ?_⟩
  rw [← Word.wellFormed_iff]
  refine ⟨fun ⟨i, hi⟩ => ?_, fun h => exists_decode_ok_iff_match.2 (exists_match_of_wellFormed h)⟩
  rw [← encodeOfDecodeIsTheWord w i hi]
  exact encode_wellFormed i

/-- Settles O1: closed words, which the decoder evaluates. -/
theorem specWordsDecodeToTheirCommands : Obligations.SpecWordsDecodeToTheirCommands := by
  unfold Obligations.SpecWordsDecodeToTheirCommands
  decide

end Sys2Proof

/-! What the commands answer: RSP's reserved bits, POP, the ends of POLL and WRITE_BYTE, and the sleeps (R80, R81). -/

namespace Sys2Proof.Machine

/-! ## RSP's reserved bits -/

theorem rspInv_of_zero {s : State} (h : s.rsp = 0#32) : RspInv s := by
  rw [RspInv, h]
  rfl

theorem record_reserved (o : Option Slot) : (Response.record o).rsp.extractLsb' 19 13 = 0#13 := by
  cases o with
  | none => rfl
  | some r => exact packRsp_reserved ..

theorem RspInv.microStep {s t : State} (h : RspInv s) (hm : MicroStep s t) : RspInv t := by
  cases hm with
  | pop | popDone | resumeDone => exact record_reserved _
  | nearlyFull | below | reached | poll => exact packRsp_reserved ..
  | push | now | deadlineAfter | waitDone | transmit => exact rspInv_of_zero rfl
  | _ => simpa [RspInv] using h

theorem RspInv.hostWrite {s : State} (r : HostReg) (v : Word) (h : RspInv s) : RspInv (hostWrite r v s) := by
  rcases hostWrite_response r v s with ⟨hrsp, -, -⟩ | ⟨-, -, _, -, hrsp, -⟩ <;> rw [RspInv, hrsp]
  · exact h
  · rfl

/-- Settles O28: what ends a command or rejects a word writes a packed response, and nothing else reaches RSP. -/
theorem everyStepKeepsRspReservedBitsZero : Obligations.EveryStepKeepsRspReservedBitsZero := by
  intro s t
  exact step_keeps (fun _ _ h => h) (fun _ _ h hm => h.microStep hm) (fun r v _ h => h.hostWrite r v)
    (fun _ _ => rspInv_of_zero rfl)

/-! ## POP -/

/-- On an empty buffer a pop is None and changes nothing (R103). -/
theorem pop_empty {s : State} (h : s.wp = s.rp) : popResult s = none ∧ popRecord s = s := by
  simp [popResult, popRecord, h]

/-- Else it takes the oldest record, which has been written since reset, and steps `rp` (R25, R103). -/
theorem RingInv.pop_oldest {s : State} (h : RingInv s) (hne : s.wp ≠ s.rp) :
    ∃ r, s.buf.read s.rp.toNat = some r ∧ popResult s = some r ∧ s.unread = r :: (popRecord s).unread
      ∧ (popRecord s).rp.toNat = (s.rp.toNat + 1) % s.params.ringSlots := by
  obtain ⟨hcur, -, hwritten⟩ := h
  obtain ⟨hp, -, hrp⟩ := id hcur
  obtain ⟨-, hn, -⟩ := (Params.wellFormed_iff _).1 hp
  have hpos : 0 < s.count := Nat.pos_of_ne_zero fun h0 => hne (hcur.count_zero_iff.1 h0)
  have hread := hwritten 0 hpos
  rw [Nat.add_zero, Nat.mod_eq_of_lt hrp] at hread
  obtain ⟨r, hr⟩ := Option.isSome_iff_exists.1 hread
  have hres : popResult s = some r := by simp [popResult, Ne.symm hne, State.ringRead, hr]
  refine ⟨r, hr, hres, ?_, ?_⟩
  · rw [hcur.pop_unread]
    exact List.eq_cons_of_mem_head? (hcur.pop_result.symm.trans hres)
  · rw [popRecord_rp, if_neg (Ne.symm hne), cursorNext_toNat hn _ hrp]

/-- Settles O36: the two cases of the pop, under the response of the record it returns. -/
theorem popReturnsTheOldest : Obligations.PopReturnsTheOldest := by
  intro s h
  refine ⟨finish (.record (popResult s)) (popRecord s), rfl, fun hempty => ?_, fun hne => ?_, fun a => ?_, ?_⟩
  · obtain ⟨hcur, -, -⟩ := h
    obtain ⟨hres, hsame⟩ := pop_empty hempty
    have hunread : s.unread = [] :=
      List.eq_nil_of_length_eq_zero (unread_length.trans (hcur.count_zero_iff.2 hempty))
    simp [hres, hsame, hunread, FinishedWith, SameRing, record_eq, recordWord]
  · obtain ⟨r, hr, hres, hunread, hrp⟩ := h.pop_oldest hne
    refine ⟨r, hr, by rw [finish_unread, hunread], ?_⟩
    simp [hres, hrp, FinishedWith, record_eq]
  · simp [State.ringRead]
  · simp [BusSaw, SameRts, SameDeadline, SameLatch, SameHostSide, SameUartTemps, SameTimerTemps]

/-! ## The ends of POLL and WRITE_BYTE -/

/-- Settles O49: with DR = 0 the drain's exit finishes with the LSR value just read. -/
theorem pollAnswersTheLastLineStatus : Obligations.PollAnswersTheLastLineStatus := by
  intro s hs hdr
  obtain ⟨h1, -⟩ := exec_poll s
  refine ⟨finish (.status s.nextLsr) (readLsr s), by rw [h1 hs, drainLsr_done _ _ hdr]; simp, ?_⟩
  simp [FinishedWith, status_response, BusSaw, State.traceWith, SameRing, SameRts, SameDeadline, SameLatch, SameHostSide,
    SameTimerTemps]

/-- WRITE_BYTE after its gate: the CTS test and the write (R151). -/
theorem exec_writeByte_send (b : Byte) (s : State) :
    (s.step = .wb5 → exec (.writeByte b) s = .next (writeCts s))
    ∧ (s.step = .wb6 → exec (.writeByte b) s = .next (finish .zero (writeData b s))) := by
  refine ⟨?_, ?_⟩ <;> intro hs <;> simp only [exec, execWriteByte, hs]

/-- The gate chooses the label that follows, and nothing else (R151). -/
theorem writeGate_eq (s : State) :
    writeGate s
      = goto (if s.tLsr.getLsbD 5 = false then .wb1 else if s.fcEn = false then .wb6 else .wb5) s := by
  cases hthre : s.tLsr.getLsbD 5 <;> cases hfc : s.fcEn <;> simp only [writeGate, hthre, hfc] <;> rfl

/-- So does the CTS test after its MSR read (R151). -/
theorem writeCts_eq (s : State) :
    writeCts s = goto (if s.nextMsr.getLsbD 4 = true then .wb6 else .wb1) (readMsr s) := by
  simp only [writeCts, readMsr_fields]
  split <;> rfl

/-- Settles O50, label by label. -/
theorem writeByteIsGatedAndThenWrites : Obligations.WriteByteIsGatedAndThenWrites := by
  intro b s
  obtain ⟨h1, -⟩ := exec_writeByte b s
  obtain ⟨h5, h6⟩ := exec_writeByte_send b s
  refine ⟨fun hs hdr => ⟨_, (h1 hs).trans (congrArg _ ((drainLsr_done _ _ hdr).trans (writeGate_eq _))), ?_⟩,
    fun hs => ⟨_, (h5 hs).trans (congrArg _ (writeCts_eq s)), ?_⟩, fun hs => ⟨_, h6 hs, ?_⟩⟩
  · simp [GoesOnAt, SameResponse, BusSaw, State.traceWith, SameRing, SameRts, SameDeadline, SameLatch, SameHostSide,
      SameTimerTemps]
  · simp [GoesOnAt, SameResponse, BusSaw, State.traceWith, SameRing, SameRts, SameDeadline, SameLatch, SameHostSide,
      SameTimerTemps]
  · simp [FinishedWith, Response.zero, BusSaw, State.traceWith, SameRing, SameRts, SameDeadline, SameLatch, SameHostSide,
      SameUartTemps, SameTimerTemps]

/-! ## The sleeps -/

/-- A command that sleeps for `k` ticks at the labels `l1` to `l3` (R171, R172). -/
def SleepsAt (i : Instr) (l1 l2 l3 : Label) (k : Nat) (s : State) : Prop :=
  (s.step = l1 → exec i s = .next (sleepBegin k l2 s))
  ∧ (s.step = l2 → exec i s = .next (sleepDeadline l3 s))
  ∧ (s.step = l3 → exec i s = .next (sleepWait l3 s))

theorem sleepMs_sleepsAt (s : State) : SleepsAt .sleepMs .sm1 .sm2 .sm3 s.millisecondTicks s := by
  refine ⟨?_, ?_, ?_⟩ <;> intro hs <;> simp only [exec, execSleepMs, hs]

theorem sleepS_sleepsAt (s : State) : SleepsAt .sleepS .ss1 .ss2 .ss3 s.secondTicks s := by
  refine ⟨?_, ?_, ?_⟩ <;> intro hs <;> simp only [exec, execSleepS, hs]

/-- The wait ends or goes on by the sample it takes (R171). -/
theorem sleepWait_eq (l : Label) (s : State) :
    sleepWait l s
      = if deadlineReached s.nextCnt s.dlStart s.dlEnd then finish .zero (readCnt s) else goto l (readCnt s) := rfl

/-- Settles O53: both sleeps make the same three micro-steps, each with its own tick product. -/
theorem sleepWaitsForItsDeadline : Obligations.SleepWaitsForItsDeadline := by
  intro i l1 l2 l3 k s hi
  have hsleeps : SleepsAt i l1 l2 l3 k s := by
    rcases hi with ⟨rfl, hl, rfl⟩ | ⟨rfl, hl, rfl⟩ <;> cases hl
    exacts [sleepMs_sleepsAt s, sleepS_sleepsAt s]
  obtain ⟨hbegin, hdeadline, hwait⟩ := hsleeps
  refine ⟨fun hs => ⟨_, hbegin hs, ?_⟩, fun hs => ⟨_, hdeadline hs, ?_⟩, fun hs => ⟨_, hwait hs, ?_⟩⟩
  · simp [sleepBegin, GoesOnAt, SameResponse, BusSaw, startTimer_trace_append, SameRing, SameRts, SameDeadline, SameLatch,
      SameHostSide, SameUartTemps]
  · simp [sleepDeadline, GoesOnAt, SameResponse, BusSaw, State.traceWith, SameRing, SameRts, SameLatch, SameHostSide,
      SameUartTemps]
  · rw [sleepWait_eq]
    cases hd : deadlineReached s.nextCnt s.dlStart s.dlEnd <;>
      simp [FinishedWith, Response.zero, GoesOnAt, SameResponse, BusSaw, State.traceWith, SameRing, SameRts, SameDeadline,
        SameLatch, SameHostSide, SameUartTemps]

end Sys2Proof.Machine

/-! The issue of a command as written: the host's operand writes and its CMD write start the command (R73, R77, R78). -/

namespace Sys2Proof.Machine

/-- A scheduled host write of a register is one step (R59). -/
theorem runSteps_writeMove {s : State} {r : HostReg} {v : Word} {rest : List Move} (hb : s.params.hostBase % 4 = 0)
    (hm : s.env.moves = writeMove s.params r v :: rest) : runSteps 1 s = .next (hostWrite r v s.afterMove) :=
  runSteps_succ 0 (step_hostWrite r v hb (by rw [State.nextMove, hm]; rfl))

/-- R77 steps 1 and 2 done: the operand registers hold what the command reads, and the CMD write is next. -/
structure OperandsWritten (a : Asm) (rest : List Move) (s u : State) : Prop where
  moves : u.env.moves = writeMove s.params .cmd (encode a.instr) :: rest
  params : u.params = s.params
  busy : u.busy = s.busy
  quiet : BusSaw [] s u
  ring : SameRing s u
  argLo : u.argLo = a.argLo
  argHi : ∀ v, a.argHi = some v → u.argHi = v

/-- The operand writes, one or two, are all of the issue but its last move (R77). -/
theorem exists_operandsWritten {a : Asm} {s : State} {rest : List Move} (hb : s.params.hostBase % 4 = 0)
    (hm : s.env.moves = a.issue s.params ++ rest) :
    ∃ k u, (a.issue s.params).length = k + 1 ∧ runSteps k s = .next u ∧ OperandsWritten a rest s u := by
  unfold Asm.issue at hm ⊢
  cases hhi : a.argHi with
  | none =>
    simp only [hhi, List.append_nil, List.cons_append, List.nil_append] at hm
    refine ⟨1, _, rfl, runSteps_writeMove hb hm, ?_⟩
    exact
      { moves := by simp [hm], params := by simp, busy := rfl, quiet := by simp [BusSaw], ring := by simp [SameRing],
        argLo := rfl, argHi := by simp [hhi] }
  | some v =>
    simp only [hhi, List.cons_append, List.nil_append] at hm
    have hlow := runSteps_writeMove hb hm
    have hhigh := runSteps_writeMove (s := hostWrite .argLo a.argLo s.afterMove) (r := .argHi) (v := v)
      (rest := writeMove s.params .cmd (encode a.instr) :: rest) hb (by simp [hm])
    refine ⟨2, _, rfl, (runSteps_add 1 hlow).trans hhigh, ?_⟩
    exact
      { moves := by simp [hm], params := by simp, busy := rfl, quiet := by simp [BusSaw], ring := by simp [SameRing],
        argLo := rfl, argHi := by simp [hhi, hostWrite] }

/-- A CMD write while idle is the acceptance of its word (R78). -/
theorem hostWrite_cmd_idle {s : State} (w : Word) (hb : s.busy = false) : hostWrite .cmd w s = acceptWord w s := by
  simp [hostWrite, writeCmd, hb]

theorem acceptWord_busy {w : Word} {i : Instr} (h : decode w = .ok i) (s : State) : (acceptWord w s).busy = true := by
  simp [acceptWord, h]

/-- Its two halves determine a 64-bit operand (R36, R73). -/
theorem eq_of_halves {k n : DWord} (hlow : k.extractLsb' 0 32 = n.extractLsb' 0 32)
    (hhigh : k.extractLsb' 32 32 = n.extractLsb' 32 32) : k = n := by
  apply BitVec.eq_of_getLsbD_eq
  intro j hj
  by_cases hlt : j < 32
  · exact getLsbD_eq_of_extractLsb'_eq hlow (by omega)
  · exact getLsbD_eq_of_extractLsb'_eq hhigh (by omega)

/-- T of a command's word is the T that READ_TO carries (R70, R77). -/
theorem encode_readTo_t (t : Bool) : Word.t (encode (.readTo t)) = t := packWord_t ..

/-- What the acceptance of the command's word latches: the operands as written (R31, R73). -/
theorem OperandsWritten.accepted {a : Asm} {rest : List Move} {s u : State} (h : OperandsWritten a rest s u) :
    (acceptWord (encode a.instr) u.afterMove).argLow = a.argLo
    ∧ (∀ v, a.argHi = some v → (acceptWord (encode a.instr) u.afterMove).argHigh = v)
    ∧ (acceptWord (encode a.instr) u.afterMove).cT = Word.t (encode a.instr) := by
  obtain ⟨-, ht, -, -, harg, -⟩ := acceptWord_latch (encode a.instr) u.afterMove
  rw [State.argLow, State.argHigh, harg, packArg_low, packArg_high]
  exact ⟨h.argLo, h.argHi, ht⟩

/-- Settles O60: the operand writes, then the acceptance of the command's own encoding. -/
theorem issuingACommandStartsItWithItsOperands : Obligations.IssuingACommandStartsItWithItsOperands := by
  intro a s rest hb hidle hm
  obtain ⟨k, u, hlen, hrun, hu⟩ := exists_operandsWritten hb hm
  obtain ⟨hlow, hhigh, ht⟩ := hu.accepted
  have hd := decodeOfEncodeIsTheCommand a.instr
  have hwrite : hostWrite .cmd (encode a.instr) u.afterMove = acceptWord (encode a.instr) u.afterMove :=
    hostWrite_cmd_idle _ (hu.busy.trans hidle)
  have hcmd := runSteps_writeMove (hu.params ▸ hb) (hu.params.symm ▸ hu.moves)
  have hframe := hostWrite_frame .cmd (encode a.instr) u.afterMove
  rw [hwrite] at hcmd hframe
  refine ⟨acceptWord (encode a.instr) u.afterMove, by rw [hlen, runSteps_add 1 hrun, hcmd], acceptWord_busy hd _,
    acceptWord_running hd _, by simp [hframe, hu.moves], ?_, ?_, ?_⟩
  · have hquiet := hu.quiet
    simpa [BusSaw, hframe] using hquiet
  · have hring := hu.ring
    simpa [SameRing, hframe] using hring
  · cases a with
    | push | writeByte => rfl
    | nearlyFull | below | sleepMs | sleepS => exact congrArg BitVec.toNat hlow
    | readTo => exact ⟨congrArg BitVec.toNat hlow, ht.trans (encode_readTo_t true)⟩
    | readForever => exact ht.trans (encode_readTo_t false)
    | reached stop start => exact ⟨hlow, hhigh start rfl⟩
    | deadlineAfter n => exact congrArg BitVec.toNat (eq_of_halves hlow (hhigh _ rfl))
    | pop | now | poll | readNb => trivial

end Sys2Proof.Machine

/-! The ring commands (40_ring_buffer.md): what stores to the ring, the answers of PUSH, NEARLY_FULL and BELOW, and pushes
past the buffer's end, by the host and by POLL. -/

namespace Sys2Proof.Machine

/-! ## What stores to the ring -/

/-- What is written in the ring RAM, with the write cursor and the index of its unspecified part (R21, R22). -/
def State.store (s : State) : Memory × Cursor × Nat := (s.buf, s.wp, s.env.resets)

theorem sameSlots_of_store {s t : State} (h : t.store = s.store) : t.wp = s.wp ∧ ∀ a, t.ringRead a = s.ringRead a := by
  simp only [State.store, Prod.mk.injEq] at h
  obtain ⟨hbuf, hwp, hresets⟩ := h
  exact ⟨hwp, fun a => by rw [State.ringRead, State.ringRead, hbuf, hresets]⟩

/-- Every operation but the push leaves it. -/
@[simp] theorem ops_store (s : State) :
    (∀ l, (goto l s).store = s.store) ∧ (∀ r, (finish r s).store = s.store) ∧ (readLsr s).store = s.store
    ∧ (readData s).store = s.store ∧ (readMsr s).store = s.store ∧ (readCnt s).store = s.store
    ∧ (readMcr s).store = s.store ∧ (∀ b, (writeData b s).store = s.store) ∧ (∀ v, (writeRts v s).store = s.store)
    ∧ (startTimer s).store = s.store ∧ (∀ k, (setTicks k s).store = s.store)
    ∧ (∀ k, (formDeadline k s).store = s.store) ∧ (popRecord s).store = s.store ∧ (popToTemp s).store = s.store := by
  simp [State.store]

/-! So does each part of a meaning but the drain's DATA micro-step. -/

@[simp] theorem drain_store (d : DrainLabels) (s : State) :
    (drainMcrRead d s).store = s.store ∧ (drainMcrWrite d s).store = s.store := by
  simp [drainMcrRead, drainMcrWrite]

@[simp] theorem drainLsr_store (d : DrainLabels) {exit : State → State} (hexit : ∀ u, (exit u).store = u.store)
    (s : State) : (drainLsr d exit s).store = s.store := by
  simp [drainLsr, apply_ite State.store, hexit]

@[simp] theorem popAndResume_store (l : Label) {after : State → State} (hafter : ∀ u, (after u).store = u.store)
    (s : State) : (popAndResume l after s).store = s.store := by
  simp [popAndResume, apply_ite State.store, hafter]

@[simp] theorem write_store (s : State) : (writeGate s).store = s.store ∧ (writeCts s).store = s.store := by
  simp [writeGate, writeCts, apply_ite State.store]

@[simp] theorem readTo_store (s : State) :
    (finishRecord s).store = s.store ∧ (∀ b, (readToBegin b s).store = s.store) ∧ (readToDeadline s).store = s.store
    ∧ (∀ b, (afterRead b s).store = s.store) ∧ (readToCheck s).store = s.store := by
  simp [finishRecord, readToBegin, readToDeadline, afterRead, readToCheck, apply_ite State.store]

@[simp] theorem sleep_store (l : Label) (s : State) :
    (∀ k, (sleepBegin k l s).store = s.store) ∧ (sleepDeadline l s).store = s.store ∧ (sleepWait l s).store = s.store := by
  simp [sleepBegin, sleepDeadline, sleepWait, apply_ite State.store]

/-- Only PUSH and a drain's DATA micro-step store (R100, R141). -/
theorem exec_store_cases {i : Instr} {s t : State} (h : exec i s = .next t) :
    t.store = s.store ∨ (∃ st d, i = .push st d ∧ t = finish .zero (pushRecord st d s))
      ∨ s.step ∈ dataLabels ∧ ∃ d, t = drainData d s := by
  cases i <;> cases h
  case push st d => exact .inr (.inl ⟨st, d, rfl, rfl⟩)
  case pop | nearlyFull | below => exact .inl (by simp)
  case now | deadlineAfter | reached | sleepMs | sleepS => exact .inl (by split <;> simp)
  case poll | writeByte | readNb =>
    split
    case h_1 hs => exact .inr (.inr ⟨by simp [hs, dataLabels], _, rfl⟩)
    all_goals exact .inl (by simp)
  case readTo =>
    split
    case h_3 hs => exact .inr (.inr ⟨by simp [hs, dataLabels], _, rfl⟩)
    all_goals exact .inl (by simp)

/-- The DATA micro-step's ring is that of its push (R141). -/
theorem drainData_ringRead_other (d : DrainLabels) (s : State) {a : Nat} (ha : a ≠ s.wp.toNat) :
    (drainData d s).ringRead a = s.ringRead a := by
  rw [drainData_eq]
  exact pushRecord_ringRead_other s.tLsr s.nextData (readData s) ha

/-- Settles O32: what stores is a push, and a push leaves the other slots. -/
theorem onlyThePushedSlotChanges : Obligations.OnlyThePushedSlotChanges := by
  intro i s t h
  refine ⟨fun a ha => ?_, fun hpush hlabel => ?_⟩ <;>
    rcases exec_store_cases h with hstore | ⟨st, d, rfl, rfl⟩ | ⟨hdata, d, rfl⟩
  · exact (sameSlots_of_store hstore).2 a
  · exact pushRecord_ringRead_other st d s ha
  · exact drainData_ringRead_other d s ha
  · exact sameSlots_of_store hstore
  · exact absurd rfl (hpush st d)
  · exact absurd hdata hlabel

/-! ## PUSH -/

/-- A push under DROP_OLDEST, with the full buffer named by its count (R101). -/
theorem queuePush_drop {cap : Nat} {q : List Slot} (r : Slot) (hpos : 0 < cap) (hle : q.length ≤ cap) :
    queuePush .dropOldest cap r q = (if q.length = cap then q.tail else q) ++ [r] := by
  unfold queuePush
  by_cases hfull : q.length = cap
  · rw [if_neg (by omega), if_pos hfull]
    exact List.tail_append_of_ne_nil (List.ne_nil_of_length_pos (by omega))
  · rw [if_pos (by omega), if_neg hfull]

/-- The same under HOLD_WRITE (R102). -/
theorem queuePush_hold {cap : Nat} {q : List Slot} (r : Slot) (hle : q.length ≤ cap) :
    queuePush .holdWrite cap r q = if q.length = cap then q else q ++ [r] := by
  unfold queuePush
  by_cases hfull : q.length = cap
  · rw [if_neg (by omega), if_pos hfull]
  · rw [if_pos (by omega), if_neg hfull]

/-- Settles O34: the cursors and the queue of a push under DROP_OLDEST, full exactly when the next `wp` is `rp`. -/
theorem pushAppendsAndDropsTheOldest : Obligations.PushAppendsAndDropsTheOldest := by
  intro st d s h hmode
  obtain ⟨hcur, -, -⟩ := h
  have hpos := ((Params.wellFormed_iff _).1 hcur.1).1
  obtain ⟨hwp, hrp⟩ := hcur.push_drop_cursors st d hmode
  refine ⟨finish .zero (pushRecord st d s), packRecord st d, rfl, recordStatus_packRecord st d,
    recordData_packRecord st d, pushRecord_ringRead_same st d s, fun a ha => pushRecord_ringRead_other st d s ha, hwp, ?_,
    hcur.push_count st d, ?_, ?_⟩
  · simpa only [← hcur.full_iff, finish_fields] using hrp
  · rw [finish_unread, hcur.push_unread, hmode,
      queuePush_drop _ (by omega) (unread_length.trans_le hcur.count_le), unread_length]
  · simp [FinishedWith, Response.zero, BusSaw, SameRts, SameDeadline, SameLatch, SameHostSide, SameUartTemps,
      SameTimerTemps]

/-- Settles O35: the same under HOLD_WRITE. -/
theorem pushUnderHoldWriteKeepsTheOldest : Obligations.PushUnderHoldWriteKeepsTheOldest := by
  intro st d s h hmode
  obtain ⟨hcur, -, -⟩ := h
  obtain ⟨hrp, hwp⟩ := hcur.push_hold_cursors st d hmode
  refine ⟨finish .zero (pushRecord st d s), packRecord st d, rfl, recordStatus_packRecord st d,
    recordData_packRecord st d, pushRecord_ringRead_same st d s, hrp, ?_, ?_, ?_⟩
  · simpa only [← hcur.full_iff, finish_fields] using hwp
  · rw [finish_unread, hcur.push_unread, hmode, queuePush_hold _ (unread_length.trans_le hcur.count_le), unread_length]
  · simp [FinishedWith, Response.zero, BusSaw]

/-! ## NEARLY_FULL and BELOW -/

/-- `finish` touches the response, `busy` and the label alone (R80). -/
theorem finish_frame (r : Response) (s : State) :
    SameRing s (finish r s) ∧ BusSaw [] s (finish r s) ∧ SameRts s (finish r s) ∧ SameDeadline s (finish r s)
    ∧ SameLatch s (finish r s) ∧ SameHostSide s (finish r s) ∧ SameUartTemps s (finish r s)
    ∧ SameTimerTemps s (finish r s) ∧ (finish r s).timerStarted = s.timerStarted := by
  simp [SameRing, BusSaw, SameRts, SameDeadline, SameLatch, SameHostSide, SameUartTemps, SameTimerTemps]

/-- The BOOL answer is bit 17 of RSP alone (R81). -/
theorem bool_response (b : Bool) : Response.bool b = ⟨if b then 0x00020000#32 else 0#32, 0#32, 0#32⟩ := by
  cases b <;> rfl

/-- `nearly_full(t)` by the unread records (R104). -/
theorem nearlyFull_iff (s : State) (t : Nat) : s.nearlyFull t = true ↔ s.params.ringSlots - 1 - s.count ≤ t := by
  simp [State.nearlyFull, State.free, Params.usable]

/-- `below(t)` by the unread records (R104). -/
theorem below_iff (s : State) (t : Nat) : s.below t = true ↔ s.count < t := by
  simp [State.below]

theorem full_iff (s : State) : s.full = true ↔ s.count = s.params.ringSlots - 1 := by
  simp [State.full, Params.usable]

/-- Settles O37. -/
theorem nearlyFullComparesFreeSlots : Obligations.NearlyFullComparesFreeSlots := by
  intro s h
  obtain ⟨hcur, -, -⟩ := h
  have hle := hcur.count_le
  have hiff := nearlyFull_iff s s.threshold
  refine ⟨finish (.bool (s.nearlyFull s.threshold)) s, s.nearlyFull s.threshold, rfl, ?_, ?_, fun hzero => ?_,
    fun hbig => ?_, finish_frame _ s⟩
  · rw [unread_length]
    exact hiff
  · simp [FinishedWith, bool_response]
  · have hzero : s.threshold = 0 := hzero
    rw [hiff, full_iff, hzero]
    omega
  · exact hiff.2 (le_trans (Nat.sub_le _ _) hbig)

/-- Settles O38. -/
theorem belowComparesUnreadRecords : Obligations.BelowComparesUnreadRecords := by
  intro s h
  obtain ⟨hcur, -, -⟩ := h
  have hle := hcur.count_le
  have hpos := ((Params.wellFormed_iff _).1 hcur.1).1
  have hiff := below_iff s s.threshold
  refine ⟨finish (.bool (s.below s.threshold)) s, s.below s.threshold, rfl, ?_, ?_, fun hzero => ?_, fun hbig => ?_,
    finish_frame _ s⟩
  · rw [unread_length]
    exact hiff
  · simp [FinishedWith, bool_response]
  · have hzero : s.threshold = 0 := hzero
    exact eq_false_of_ne_true fun hbelow => Nat.not_lt_zero _ (hzero ▸ hiff.1 hbelow)
  · exact hiff.2 (lt_of_lt_of_le (by omega) hbig)

/-! ## Pushes past the end of the buffer -/

/-- The newest of some records and then more are the newest of them all. -/
theorem rtake_rtake_append {α : Type} (n : Nat) (l m : List α) : (l.rtake n ++ m).rtake n = (l ++ m).rtake n := by
  simp only [List.rtake_eq_reverse_take_reverse, List.reverse_append, List.reverse_reverse, List.take_append,
    List.take_take]
  congr 3
  omega

theorem rtake_of_length_le {α : Type} {n : Nat} {l : List α} (h : l.length ≤ n) : l.rtake n = l := by
  rw [List.rtake, Nat.sub_eq_zero_of_le h, List.drop_zero]

/-- A push under DROP_OLDEST keeps the newest records (R101). -/
theorem queuePush_newest {cap : Nat} {q : List Slot} (r : Slot) (hle : q.length ≤ cap) :
    queuePush .dropOldest cap r q = (q ++ [r]).rtake cap := by
  unfold queuePush
  split
  · rw [rtake_of_length_le (by simp; omega)]
  · rw [List.rtake, show (q ++ [r]).length - cap = 1 by simp; omega, List.drop_one]

theorem queuePush_length {mode : OverwriteMode} {cap : Nat} {q : List Slot} (r : Slot) (hle : q.length ≤ cap) :
    (queuePush mode cap r q).length = min (q.length + 1) cap := by
  unfold queuePush
  split
  · simp; omega
  · cases mode <;> simp <;> omega

/-- A queue after some pushes. -/
def queuePushAll (mode : OverwriteMode) (cap : Nat) (q rs : List Slot) : List Slot :=
  rs.foldl (fun q r => queuePush mode cap r q) q

theorem queuePushAll_cons (mode : OverwriteMode) (cap : Nat) (q rs : List Slot) (r : Slot) :
    queuePushAll mode cap q (r :: rs) = queuePushAll mode cap (queuePush mode cap r q) rs := rfl

theorem queuePushAll_length {mode : OverwriteMode} {cap : Nat} {q : List Slot} (rs : List Slot) (hle : q.length ≤ cap) :
    (queuePushAll mode cap q rs).length = min (q.length + rs.length) cap := by
  induction rs generalizing q with
  | nil => simpa [queuePushAll] using hle
  | cons r rs ih =>
    have hlen := queuePush_length (mode := mode) r hle
    rw [queuePushAll_cons, ih (by omega), List.length_cons]
    omega

/-- Pushes under DROP_OLDEST keep the newest records (R110). -/
theorem queuePushAll_newest {cap : Nat} {q : List Slot} (rs : List Slot) (hle : q.length ≤ cap) :
    queuePushAll .dropOldest cap q rs = (q ++ rs).rtake cap := by
  induction rs generalizing q with
  | nil => simpa [queuePushAll] using (rtake_of_length_le hle).symm
  | cons r rs ih =>
    have hlen := queuePush_length (mode := .dropOldest) r hle
    rw [queuePushAll_cons, ih (by omega), queuePush_newest r hle, rtake_rtake_append, List.append_assoc,
      List.singleton_append]

/-- One pop more than there are records returns them in order and then None (R103). -/
theorem queueRun_pops (mode : OverwriteMode) (cap : Nat) (q : List Slot) :
    (queueRun mode cap (List.replicate (q.length + 1) .pop) q).2 = q.map some ++ [none] := by
  induction q with
  | nil => rfl
  | cons r q ih => exact congrArg (some r :: ·) ih

/-- A run of PUSH commands (R101, R102). -/
theorem RingInv.ringRun_pushes (rs : List (Byte × Byte)) {s : State} (h : RingInv s) :
    ∃ t, ringRun (rs.map (fun r => .push r.1 r.2)) s = some (t, []) ∧ RingInv t ∧ t.params = s.params
      ∧ t.unread = queuePushAll s.params.overwriteMode (s.params.ringSlots - 1) s.unread
          (rs.map (fun r => packRecord r.1 r.2)) := by
  induction rs generalizing s with
  | nil => exact ⟨s, rfl, h, rfl, rfl⟩
  | cons r rs ih =>
    obtain ⟨hcur, -, -⟩ := id h
    obtain ⟨t, hrun, hinv, hp, hunread⟩ := ih ((h.push r.1 r.2).finish .zero)
    simp only [finish_unread, hcur.push_unread, finish_fields, pushRecord_frame] at hp hunread
    exact ⟨t, ringRun_push hrun, hinv, hp, hunread⟩

theorem CursorInv.unread_eq_nil {s : State} (h : CursorInv s) (hempty : s.wp = s.rp) : s.unread = [] :=
  List.eq_nil_of_length_eq_zero (unread_length.trans (h.count_zero_iff.2 hempty))

/-- Settles O40: the pushes leave the newest records, the pops return what the queue returns (O39). -/
theorem overflowKeepsTheNewestRecords : Obligations.OverflowKeepsTheNewestRecords := by
  intro rs s h hmode hempty hlong
  obtain ⟨hcur, -, -⟩ := id h
  have hpos := ((Params.wellFormed_iff _).1 hcur.1).1
  obtain ⟨t, hpush, hinv, hp, hunread⟩ := h.ringRun_pushes rs
  rw [hmode, hcur.unread_eq_nil hempty, queuePushAll_newest _ (Nat.zero_le _), List.nil_append, List.rtake,
    List.length_map] at hunread
  have hcount : t.count = s.params.ringSlots - 1 := by
    rw [← unread_length, hunread, List.length_drop, List.length_map]
    omega
  obtain ⟨u, hpop, -, -⟩ := ringCommandsActAsABoundedQueue (List.replicate (t.unread.length + 1) .pop) t hinv
  have hslots : s.params.ringSlots = t.unread.length + 1 := by
    rw [unread_length, hcount]
    omega
  refine ⟨t, u, hpush, hcount, ?_⟩
  rw [← hunread, hslots, hpop, queueRun_pops]
  simp [recordWord]

/-- Settles O41. -/
theorem nearlyFullBeginsAtTheStopWatermark : Obligations.NearlyFullBeginsAtTheStopWatermark := by
  refine ⟨fun p e => ?_, fun rs s h hempty => ?_⟩
  · obtain ⟨hres, hsame⟩ := pop_empty (s := State.atReset p e) rfl
    refine ⟨finish .zero (State.atReset p e), ?_, by simp [FinishedWith, Response.zero]⟩
    simp only [exec, execPop, hres, hsame, Response.record]
  · obtain ⟨hcur, -, -⟩ := id h
    obtain ⟨t, hpush, -, hp, hunread⟩ := h.ringRun_pushes rs
    have hcount : t.count = min rs.length (s.params.ringSlots - 1) := by
      rw [← unread_length, hunread, queuePushAll_length _ (unread_length.trans_le hcur.count_le),
        hcur.unread_eq_nil hempty, List.length_nil, Nat.zero_add, List.length_map]
    refine ⟨t, hpush, ?_, fun hn => ?_⟩ <;> rw [nearlyFull_iff, hp, hcount] <;> omega

/-! ## POLL's pushes -/

/-- One byte `y` taken by POLL without flow control, pushed with the LSR value `x` read before it (R141, R142). -/
structure PollTaken (x y : Byte) (s u : State) : Prop where
  step : u.step = .poll1
  moves : u.env.moves = []
  lsrIn : u.env.lsrIn = s.env.lsrIn.tail
  dataIn : u.env.dataIn = s.env.dataIn.tail
  params : u.params = s.params
  fcEn : u.fcEn = false
  ring : SameRing (pushRecord x y s) u

/-- It costs POLL.1 and POLL.2. -/
theorem exists_pollTaken {s : State} {x y : Byte} {ls ds : List Byte} (hs : s.step = .poll1) (hm : s.env.moves = [])
    (hoff : s.fcEn = false) (hlsr : s.env.lsrIn = x :: ls) (hdata : s.env.dataIn = y :: ds) (hdr : x.getLsbD 0 = true) :
    ∃ u, Reaches 2 [busTx s.params .read .lsr (x.setWidth 32), busTx s.params .read .data (y.setWidth 32)] s u
      ∧ PollTaken x y s u := by
  have hx : s.nextLsr = x := by simp [State.nextLsr, hlsr]
  have hy : (goto .poll2 (readLsr s)).nextData = y := by simp [State.nextData, hdata]
  obtain ⟨hp, hfc, -, hmoves, hlsrIn, hdataIn, -⟩ := pollPushed_fields s
  have hrun := runSteps_pollPushed hs hm (hx ▸ hdr)
  rw [if_neg (by simp [hoff])] at hrun
  refine ⟨goto .poll1 (pollPushed s), ⟨hrun, by simp [BusSaw, pollPushed, State.traceWith, hx, hy]⟩, ?_⟩
  have hsame : SameRing s (readData (goto .poll2 (readLsr s))) := by simp [SameRing]
  have hring : SameRing (pushRecord x y s) (pollPushed s) := by
    simpa only [pollPushed, hx, hy] using hsame.push (by simp) x y
  exact
    { step := rfl, moves := hmoves.trans hm, lsrIn := hlsrIn, dataIn := hdataIn, params := hp, fcEn := hfc.trans hoff,
      ring := hring }

theorem PollTaken.ringInv {s u : State} {x y : Byte} (h : PollTaken x y s u) (hinv : RingInv s) : RingInv u :=
  (hinv.push x y).of_same (by simp [h.params]) h.ring

/-- It stays among the newest records (R101). -/
theorem PollTaken.unread {s u : State} {x y : Byte} (h : PollTaken x y s u) (hcur : CursorInv s)
    (hmode : s.params.overwriteMode = .dropOldest) :
    u.unread = (s.unread ++ [packRecord x y]).rtake (s.params.ringSlots - 1) := by
  rw [unread_of_same (by simp [h.params]) h.ring, hcur.push_unread, hmode,
    queuePush_newest _ (unread_length.trans_le hcur.count_le)]

/-- The reads of POLL for the bytes `ds`, each after the LSR value at its place in `ls` (R141). -/
def pollReads (p : Params) (ls ds : List Byte) : List BusTx :=
  (ls.zip ds).flatMap fun x => [busTx p .read .lsr (x.1.setWidth 32), busTx p .read .data (x.2.setWidth 32)]

/-- POLL without flow control, by induction on the waiting bytes: each is taken, and then POLL.1 finishes (R144, R145). -/
theorem poll_drains (ls : List Byte) {s : State} {ds rl rd : List Byte} {l : Byte} (h : RingInv s)
    (hmode : s.params.overwriteMode = .dropOldest) (hs : s.step = .poll1) (hm : s.env.moves = []) (hoff : s.fcEn = false)
    (hlsr : s.env.lsrIn = ls ++ l :: rl) (hdata : s.env.dataIn = ds ++ rd) (hlen : ds.length = ls.length)
    (hall : ∀ x ∈ ls, x.getLsbD 0 = true) (hdr : l.getLsbD 0 = false) :
    ∃ t, Reaches (2 * ls.length + 1) (pollReads s.params ls ds ++ [busTx s.params .read .lsr (l.setWidth 32)]) s t
      ∧ FinishedWith (l.setWidth 32 <<< 8) 0#32 0#32 t
      ∧ t.unread = (s.unread ++ List.zipWith packRecord ls ds).rtake (s.params.ringSlots - 1)
      ∧ t.env.lsrIn = rl ∧ t.env.dataIn = rd := by
  induction ls generalizing s ds with
  | nil =>
    obtain rfl := List.eq_nil_of_length_eq_zero hlen
    have hnext : s.nextLsr = l := by simp [State.nextLsr, hlsr]
    have hsame : (finish (.status s.nextLsr) (readLsr s)).unread = s.unread :=
      unread_of_same (by simp) (by simp [SameRing])
    obtain ⟨hcur, -, -⟩ := h
    refine ⟨_, ⟨runSteps_pollDone hs hm (hnext ▸ hdr), by simp [BusSaw, State.traceWith, pollReads, hnext]⟩,
      by simp [FinishedWith, status_response, hnext], ?_, by simp [hlsr], by simp [hdata]⟩
    rw [hsame, List.zipWith_nil_left, List.append_nil, rtake_of_length_le (unread_length.trans_le hcur.count_le)]
  | cons x ls ih =>
    obtain ⟨y, ds, rfl⟩ := List.exists_cons_of_length_eq_add_one hlen
    obtain ⟨u, htake, hu⟩ := exists_pollTaken hs hm hoff hlsr hdata (hall x List.mem_cons_self)
    obtain ⟨hcur, -, -⟩ := id h
    obtain ⟨t, hrest, hfin, hunread, hin⟩ := ih (hu.ringInv h) (by rw [hu.params, hmode]) hu.step hu.moves hu.fcEn
      (by rw [hu.lsrIn, hlsr]; rfl) (by rw [hu.dataIn, hdata]; rfl) (Nat.succ.inj hlen)
      (fun z hz => hall z (List.mem_cons_of_mem x hz))
    rw [hu.params] at hrest hunread
    refine ⟨t, ?_, hfin, ?_, hin⟩
    · have hrun := htake.trans hrest
      rwa [show 2 + (2 * ls.length + 1) = 2 * (x :: ls).length + 1 by rw [List.length_cons]; omega] at hrun
    · rw [hunread, hu.unread hcur hmode, rtake_rtake_append, List.append_assoc]
      rfl

/-- Settles O55. -/
theorem pollDrainsEveryWaitingByte : Obligations.PollDrainsEveryWaitingByte := by
  intro s ls ds rl rd l h hmode hs hm hoff hlsr hdata hlen hall hdr
  obtain ⟨t, ⟨hrun, hsaw⟩, hfin, hunread, hin⟩ := poll_drains ls h hmode hs hm hoff hlsr hdata hlen hall hdr
  refine ⟨t, hrun, hfin, ?_, hsaw, hin⟩
  rw [hunread, List.rtake, List.length_append, List.length_zipWith, hlen, Nat.min_self]

end Sys2Proof.Machine

/-! The timer: the counter is started before any label that reads it, the comparator on the circle of 2^32 values, and the
commands NOW, DEADLINE_AFTER and REACHED (41_timer.md). -/

namespace Sys2Proof.Machine

/-! ## The labels that need the counter -/

/-- The label reads CNT_VAL, or a READ_TO with T = 1 may still come to one that does (R121, R157). -/
def NeedsCounter (s : State) : Prop := s.step ∈ counterLabels ∨ s.step ∈ readToLater ∧ s.cT = true

theorem timerInv_iff (s : State) :
    TimerInv s ↔ (NeedsCounter s → s.timerStarted = true) ∧ (s.step ∈ [.rt2, .rt10] → s.cT = true) := by
  simp only [TimerInv, NeedsCounter, or_imp, and_imp, List.mem_cons, List.not_mem_nil, or_false]
  tauto

/-- If both lists of labels are entered from within along `edges`, an edge keeps the need where it was. -/
theorem needsCounter_of_edge {edges : List (Label × Label)} {s t : State} {l : Label} (he : (s.step, l) ∈ edges)
    (hcounter : ∀ e ∈ edges, e.2 ∈ counterLabels → e.1 ∈ counterLabels)
    (hlater : ∀ e ∈ edges, e.2 ∈ readToLater → e.1 ∈ readToLater) (hl : t.step = l) (ht : t.cT = s.cT)
    (h : NeedsCounter t) : NeedsCounter s := by
  rcases h with h | ⟨h, hon⟩
  · exact .inl (hcounter _ he (hl ▸ h))
  · exact .inr ⟨hlater _ he (hl ▸ h), ht ▸ hon⟩

/-- A label that needs the counter is entered by a start micro-step or from another such label (R121). -/
theorem microStep_to_needsCounter {s t : State} (h : MicroStep s t) (ht : NeedsCounter t) :
    t.timerStarted = true ∨ t.timerStarted = s.timerStarted ∧ NeedsCounter s := by
  cases h with
  | start | begin => exact .inl (by simp)
  | deadline _ he | waitMore _ he | drainMore _ he | drainData _ he | drainDataStop _ he | drainMcrRead _ he
  | drainMcrWrite _ he | drained _ he | popResume _ he | resumeRead _ he =>
    exact .inr ⟨by simp, needsCounter_of_edge he (by decide) (by decide) (by simp) (by simp) ht⟩
  | beginForever _ hoff => simp [NeedsCounter, counterLabels, hoff] at ht
  | popRetry _ hs _ _ hl | resumeRetry _ hs _ hl =>
    rcases hl with ⟨hon, -⟩ | ⟨hoff, rfl⟩
    · exact .inr ⟨by simp, .inr ⟨by simp [hs, readToLater], hon⟩⟩
    · simp [NeedsCounter, counterLabels, hoff] at ht
  | gate _ _ _ hl =>
    rcases hl with ⟨-, rfl⟩ | ⟨-, -, rfl⟩ | ⟨-, -, rfl⟩ <;> simp [NeedsCounter, counterLabels, readToLater] at ht
  | _ => simp [NeedsCounter, counterLabels, readToLater] at ht

/-- READ_TO comes to the labels that read the counter with T = 1 only (R157). -/
theorem microStep_to_readToCounter {s t : State} (h : MicroStep s t) (ht : t.step ∈ [.rt2, .rt10]) : t.cT = true := by
  cases h with
  | begin _ _ hl =>
    rcases hl with ⟨-, rfl, -⟩ | ⟨-, rfl, -⟩ | ⟨-, hon, -, -⟩
    · simp at ht
    · simp at ht
    · simpa using hon
  | popRetry _ _ _ _ hl | resumeRetry _ _ _ hl =>
    rcases hl with ⟨hon, -⟩ | ⟨-, rfl⟩
    · simpa using hon
    · simp at ht
  | start _ he | deadline _ he | waitMore _ he | drainMore _ he | drainData _ he | drainDataStop _ he
  | drainMcrRead _ he | drainMcrWrite _ he | drained _ he | popResume _ he | resumeRead _ he =>
    exact absurd ht (target_notMem_of_edge he (by decide))
  | gate _ _ _ hl => rcases hl with ⟨-, rfl⟩ | ⟨-, -, rfl⟩ | ⟨-, -, rfl⟩ <;> simp at ht
  | _ => simp at ht

theorem TimerInv.microStep {s t : State} (h : TimerInv s) (hm : MicroStep s t) : TimerInv t := by
  obtain ⟨hneeds, -⟩ := (timerInv_iff s).1 h
  refine (timerInv_iff t).2 ⟨fun ht => ?_, microStep_to_readToCounter hm⟩
  rcases microStep_to_needsCounter hm ht with hon | ⟨hsame, hs⟩
  · exact hon
  · exact hsame.trans (hneeds hs)

/-- At IDLE and at a command's first label the invariant says nothing. -/
theorem timerInv_of_step {s : State} (h : s.step ∉ counterLabels ++ readToLater) : TimerInv s := by
  rw [List.mem_append, not_or] at h
  obtain ⟨hcounter, hlater⟩ := h
  refine ⟨fun hs => absurd hs hcounter, fun hs => absurd hs hlater, fun hs => absurd ?_ hcounter⟩
  rcases hs with hs | hs <;> simp [hs, counterLabels]

/-- A CMD write changes the latch at IDLE alone, and moves to a first label alone. -/
theorem TimerInv.hostWrite {s : State} (r : HostReg) (v : Word) (hc : ControlInv s) (h : TimerInv s) :
    TimerInv (hostWrite r v s) := by
  obtain ⟨hbusy, -⟩ := hc
  rcases hostWrite_cases r v s with
    ⟨-, e⟩ | ⟨-, e⟩ | ⟨-, -, e⟩ | ⟨-, -, i, -, e⟩ | ⟨-, hb, _, -, e⟩ | ⟨-, -, -, e⟩ <;> rw [e]
  case inr.inr.inr.inl => exact timerInv_of_step (by cases i <;> simp [firstLabel, counterLabels, readToLater])
  case inr.inr.inr.inr.inl =>
    have hs : s.step = .idle := by simpa [hb] using hbusy
    exact timerInv_of_step (by simp [hs, counterLabels, readToLater])
  all_goals exact h

/-- Settles O21: a start micro-step leads to the labels that need the counter, and a new latch starts at a first label. -/
theorem everyStepKeepsTheTimerInvariant : Obligations.EveryStepKeepsTheTimerInvariant := by
  intro s t hc h hstep
  have ha : TimerInv s.afterMove := h
  rcases step_edges hstep with
    ⟨-, hmicro | ⟨-, rfl⟩⟩ | ⟨r, ⟨_, -, -, rfl⟩ | ⟨_, v, -, -, rfl⟩⟩ | ⟨-, rfl⟩
  · exact ha.microStep hmicro
  · exact ha
  · exact ha
  · exact ha.hostWrite r v hc
  · exact timerInv_of_step (s := applyReset s.afterMove) (by decide : Label.idle ∉ _)

/-! ## The comparator -/

/-- The comparator's definition as a proposition (R125). -/
theorem deadlineReached_iff (cur s e : Word) : deadlineReached cur s e = true ↔ (e - s).toNat ≤ (cur - s).toNat := by
  simp [deadlineReached]

/-- Settles O45: both differences are counted from `s`, so the order on the circle is the order from `s` on. -/
theorem comparatorByCases : Obligations.ComparatorByCases := by
  intro cur s e
  have hiff := deadlineReached_iff cur s e
  refine ⟨hiff, fun hle => ?_, fun hlt => ?_⟩
  · rw [hiff]
    bv_omega
  · rw [hiff]
    bv_omega

/-- The comparator counted from the deadline's end: it is true until the lap is over (R129). -/
theorem deadlineReached_iff_past_end (cur s e : Word) :
    deadlineReached cur s e = true ↔ (cur - e).toNat < 2 ^ 32 - (e - s).toNat := by
  rw [deadlineReached_iff]
  bv_omega

/-- The values at an offset below `n` from `a`. -/
theorem exists_offset_lt_iff {a b : Word} {n : Nat} (hn : n ≤ 2 ^ 32) :
    (∃ j, j < n ∧ b = a + BitVec.ofNat 32 j) ↔ (b - a).toNat < n := by
  constructor
  · rintro ⟨j, hj, rfl⟩
    rw [add_sub_cancel_left, BitVec.toNat_ofNat, Nat.mod_eq_of_lt (hj.trans_le hn)]
    exact hj
  · intro h
    exact ⟨(b - a).toNat, h, by rw [BitVec.ofNat_toNat, BitVec.setWidth_eq]; exact (add_sub_cancel a b).symm⟩

/-- Settles O46: the window is counted from the deadline's end, and at the start no tick has elapsed. -/
theorem comparatorWindow : Obligations.ComparatorWindow := by
  intro cur s e
  refine ⟨?_, ?_⟩
  · rw [deadlineReached_iff_past_end, exists_offset_lt_iff (Nat.sub_le _ _)]
  · rw [deadlineReached_iff, BitVec.sub_self]
    bv_omega

/-! ## The deadline's end -/

theorem deadlineEnd_of_le {k : Nat} (s : Word) (h : k ≤ 0xFFFFFFFF) : deadlineEnd s k = s + BitVec.ofNat 32 k :=
  if_neg (Nat.not_lt.2 h)

theorem deadlineEnd_of_gt {k : Nat} (s : Word) (h : 0xFFFFFFFF < k) : deadlineEnd s k = s - 1#32 :=
  if_pos h

/-- The duration of a deadline whose count fits a word is the count (R124). -/
theorem deadlineEnd_sub_toNat {k : Nat} (s : Word) (h : k ≤ 0xFFFFFFFF) : (deadlineEnd s k - s).toNat = k := by
  rw [deadlineEnd_of_le s h, add_sub_cancel_left, BitVec.toNat_ofNat, Nat.mod_eq_of_lt (by omega)]

/-- The longest deadline ends one tick before its start (R124). -/
theorem deadlineEnd_longest (s : Word) : deadlineEnd s 0xFFFFFFFF = s - 1#32 := by
  rw [deadlineEnd_of_le s le_rfl]
  bv_omega

/-- Settles O47: a count that fits a word is added as it is, and the clamp is the longest of these. -/
theorem clampedDeadlineIsTheLongest : Obligations.ClampedDeadlineIsTheLongest := by
  intro s k
  refine ⟨deadlineEnd_sub_toNat s, fun hk => ?_⟩
  have hclamp : deadlineEnd s k = s - 1#32 := deadlineEnd_of_gt s (by omega)
  have hlongest : deadlineEnd s k = deadlineEnd s 0xFFFFFFFF := hclamp.trans (deadlineEnd_longest s).symm
  have hduration : (deadlineEnd s k - s).toNat = 0xFFFFFFFF := by rw [hlongest, deadlineEnd_sub_toNat s le_rfl]
  exact ⟨hlongest, hclamp, hduration⟩

/-! ## NOW, DEADLINE_AFTER and REACHED -/

/-- The start micro-step X.1 of the timer commands (R121): the counter is started and nothing else changes. -/
theorem startMicroStep_effect (l : Label) (s : State) :
    let t := goto l (startTimer s)
    GoesOnAt l s t ∧ t.timerStarted = true
    ∧ BusSaw (if s.timerStarted then [] else [busTx s.params .write .cntCtrl s.params.cntStartWord]) s t
    ∧ SameRing s t ∧ SameRts s t ∧ SameDeadline s t ∧ SameLatch s t ∧ SameHostSide s t ∧ SameUartTemps s t
    ∧ SameTimerTemps s t ∧ SameUartInputs s t := by
  simp [GoesOnAt, SameResponse, BusSaw, startTimer_trace_append, SameRing, SameRts, SameDeadline, SameLatch, SameHostSide,
    SameUartTemps, SameTimerTemps, SameUartInputs]

/-- The one read of CNT_VAL (R122) in a micro-step that then finishes with `r`: what it leaves as it was. -/
theorem finish_readCnt_effect (r : Response) (s : State) :
    let t := finish r (readCnt s)
    t.tCur = s.nextCnt ∧ BusSaw [busTx s.params .read .cntVal s.nextCnt] s t ∧ t.timerStarted = s.timerStarted
    ∧ SameRing s t ∧ SameRts s t ∧ SameDeadline s t ∧ SameLatch s t ∧ SameHostSide s t ∧ SameUartTemps s t
    ∧ t.tTicks = s.tTicks ∧ SameUartInputs s t := by
  simp [BusSaw, State.traceWith, SameRing, SameRts, SameDeadline, SameLatch, SameHostSide, SameUartTemps, SameUartInputs]

/-- So with the deadline formed between the two (R127), but for the deadline registers. -/
theorem finish_formDeadline_effect (r : Response) (k : Nat) (s : State) :
    let t := finish r (formDeadline k (readCnt s))
    t.dlStart = s.nextCnt ∧ t.dlEnd = deadlineEnd s.nextCnt k ∧ t.tCur = s.nextCnt
    ∧ BusSaw [busTx s.params .read .cntVal s.nextCnt] s t ∧ t.timerStarted = s.timerStarted
    ∧ SameRing s t ∧ SameRts s t ∧ SameLatch s t ∧ SameHostSide s t ∧ SameUartTemps s t ∧ t.tTicks = s.tTicks
    ∧ SameUartInputs s t := by
  simp [BusSaw, State.traceWith, SameRing, SameRts, SameLatch, SameHostSide, SameUartTemps, SameUartInputs]

/-- The two micro-steps of NOW (R126, log 7). -/
theorem exec_now (s : State) :
    (s.step ≠ .now2 → exec .now s = .next (goto .now2 (startTimer s)))
    ∧ (s.step = .now2 → exec .now s = .next (finish (.counter s.nextCnt) (readCnt s))) := by
  refine ⟨fun hs => ?_, fun hs => ?_⟩
  · simp only [exec, execNow]
  · simp [exec, execNow, hs]

/-- The two micro-steps of DEADLINE_AFTER (R127, log 7). -/
theorem exec_deadlineAfter (s : State) :
    (s.step ≠ .da2 → exec .deadlineAfter s = .next (goto .da2 (startTimer s)))
    ∧ (s.step = .da2 → exec .deadlineAfter s = .next
        (finish (.deadline (deadlineEnd s.nextCnt s.ticks) s.nextCnt) (formDeadline s.ticks (readCnt s)))) := by
  refine ⟨fun hs => ?_, fun hs => ?_⟩
  · simp only [exec, execDeadlineAfter]
  · simp [exec, execDeadlineAfter, hs]

/-- The two micro-steps of REACHED (R128, log 7). -/
theorem exec_reached (s : State) :
    (s.step ≠ .rc2 → exec .reached s = .next (goto .rc2 (startTimer s)))
    ∧ (s.step = .rc2 → exec .reached s = .next (finish
        (.comparison (deadlineReached s.nextCnt s.startOperand s.endOperand) s.nextCnt) (readCnt s))) := by
  refine ⟨fun hs => ?_, fun hs => ?_⟩
  · simp only [exec, execReached]
  · simp [exec, execReached, hs, State.startOperand, State.endOperand, State.argLow, State.argHigh]

/-- Settles O42, label by label: the value read goes from `t_cur` to RSP_V0. -/
theorem nowAnswersTheCounter : Obligations.NowAnswersTheCounter := by
  intro s
  obtain ⟨hstart, hsample⟩ := exec_now s
  refine ⟨fun hs => ⟨_, hstart hs, startMicroStep_effect .now2 s⟩, fun hs => ⟨_, hsample hs, ?_, ?_⟩⟩
  · simp [FinishedWith, Response.counter]
  · exact finish_readCnt_effect _ s

/-- Settles O43, label by label: the end is that of `deadlineEnd` for the sampled start. -/
theorem deadlineAfterFormsTheDeadline : Obligations.DeadlineAfterFormsTheDeadline := by
  intro s
  obtain ⟨hstart, hsample⟩ := exec_deadlineAfter s
  refine ⟨fun hs => ⟨_, hstart hs, startMicroStep_effect .da2 s⟩,
    fun hs => ⟨_, deadlineEnd s.nextCnt s.ticks, hsample hs, fun hk => ?_, fun hk => ?_, ?_, ?_⟩⟩
  · rw [deadlineEnd_of_le _ (k := s.ticks) hk, BitVec.toNat_add, BitVec.toNat_ofNat, Nat.add_mod_mod]
    rfl
  · rw [deadlineEnd_of_gt _ (k := s.ticks) hk]
    bv_omega
  · simp [FinishedWith, Response.deadline]
  · exact finish_formDeadline_effect _ s.ticks s

/-- The comparator on unsigned numbers (R8, R125). -/
theorem deadlineReached_iff_mod (cur s e : Word) : deadlineReached cur s e = true ↔
    (e.toNat + 2 ^ 32 - s.toNat) % 2 ^ 32 ≤ (cur.toNat + 2 ^ 32 - s.toNat) % 2 ^ 32 := by
  have hs := s.isLt
  rw [deadlineReached_iff, BitVec.toNat_sub, BitVec.toNat_sub]
  omega

/-- The row REACHED of R81: the comparison in bit 17 of RSP alone, the sample in RSP_V0. -/
theorem comparison_response (b : Bool) (v : Word) :
    Response.comparison b v = ⟨if b then 0x00020000#32 else 0#32, v, 0#32⟩ := by
  cases b <;> rfl

/-- Settles O44, label by label: the comparator on the operands and the fresh sample. -/
theorem reachedComparesOnTheCircle : Obligations.ReachedComparesOnTheCircle := by
  intro s
  obtain ⟨hstart, hsample⟩ := exec_reached s
  refine ⟨fun hs => ⟨_, hstart hs, startMicroStep_effect .rc2 s⟩,
    fun hs => ⟨_, deadlineReached s.nextCnt s.startOperand s.endOperand, hsample hs, deadlineReached_iff_mod _ _ _,
      ?_, ?_⟩⟩
  · simp [FinishedWith, comparison_response]
  · exact finish_readCnt_effect _ s

end Sys2Proof.Machine

/-! The sleeps leave the UART to itself (R170): at every label they make one of X.1 to X.3, on the counter alone. -/

namespace Sys2Proof.Machine

/-- Between `s` and `t` the ring and the UART's side are untouched, and the bus saw at most one transaction, of the
counter (R170). -/
def OnlyCounterTouched (s t : State) : Prop :=
  SameRing s t ∧ SameRts s t ∧ SameUartTemps s t ∧ SameUartInputs s t
  ∧ (BusSaw [] s t ∨ ∃ tx, BusSaw [tx] s t ∧ (tx.reg = .cntVal ∨ tx.reg = .cntCtrl))

/-- X.start makes one write of CNT_CTRL when the counter is not started, else no transaction (R121). -/
theorem startTimer_onlyCounterTouched (s : State) : OnlyCounterTouched s (startTimer s) := by
  refine ⟨by simp [SameRing], by simp [SameRts], by simp [SameUartTemps], by simp [SameUartInputs], ?_⟩
  have hsaw : BusSaw (if s.timerStarted then [] else [busTx s.params .write .cntCtrl s.params.cntStartWord]) s
      (startTimer s) := startTimer_trace_append s
  split at hsaw
  · exact .inl hsaw
  · exact .inr ⟨_, hsaw, .inr rfl⟩

/-- A counter sample is one read of CNT_VAL (R122). -/
theorem readCnt_onlyCounterTouched (s : State) : OnlyCounterTouched s (readCnt s) := by
  refine ⟨?_, ?_, ?_, ?_, .inr ⟨busTx s.params .read .cntVal s.nextCnt, ?_, .inl rfl⟩⟩ <;>
    simp [BusSaw, State.traceWith, SameRing, SameRts, SameUartTemps, SameUartInputs]

/-- The label, the response, the deadline registers and `t_ticks` are neither the UART's side nor the bus. -/
theorem onlyCounterTouched_iff (s t : State) :
    (∀ l, OnlyCounterTouched s (goto l t) ↔ OnlyCounterTouched s t)
    ∧ (∀ r, OnlyCounterTouched s (finish r t) ↔ OnlyCounterTouched s t)
    ∧ (∀ k, OnlyCounterTouched s (formDeadline k t) ↔ OnlyCounterTouched s t)
    ∧ (∀ k, OnlyCounterTouched (setTicks k s) t ↔ OnlyCounterTouched s t) :=
  ⟨fun _ => .rfl, fun _ => .rfl, fun _ => .rfl, fun _ => .rfl⟩

theorem sleepBegin_onlyCounterTouched (k : Nat) (l : Label) (s : State) : OnlyCounterTouched s (sleepBegin k l s) := by
  have hstart := startTimer_onlyCounterTouched (setTicks k s)
  simpa only [sleepBegin, onlyCounterTouched_iff] using hstart

theorem sleepDeadline_onlyCounterTouched (l : Label) (s : State) : OnlyCounterTouched s (sleepDeadline l s) := by
  simpa only [sleepDeadline, onlyCounterTouched_iff] using readCnt_onlyCounterTouched s

theorem sleepWait_onlyCounterTouched (l : Label) (s : State) : OnlyCounterTouched s (sleepWait l s) := by
  rw [sleepWait_eq]
  split <;> simpa only [onlyCounterTouched_iff] using readCnt_onlyCounterTouched s

/-- The first label is also where a command not under way begins (log 7), so X.1 to X.3 are all that a sleep does. -/
theorem exec_sleep_cases {i : Instr} {s t : State} (hi : i = .sleepMs ∨ i = .sleepS) (h : exec i s = .next t) :
    (∃ k l, t = sleepBegin k l s) ∨ (∃ l, t = sleepDeadline l s) ∨ ∃ l, t = sleepWait l s := by
  rcases hi with rfl | rfl <;> cases h
  all_goals
    split
    · exact .inr (.inl ⟨_, rfl⟩)
    · exact .inr (.inr ⟨_, rfl⟩)
    · exact .inl ⟨_, _, rfl⟩

/-- Settles O54: each of the three micro-steps of a sleep touches only the counter. -/
theorem delaysNeverTouchTheUart : Obligations.DelaysNeverTouchTheUart := by
  intro i s t hi h
  rcases exec_sleep_cases hi h with ⟨k, l, rfl⟩ | ⟨l, rfl⟩ | ⟨l, rfl⟩
  · exact sleepBegin_onlyCounterTouched k l s
  · exact sleepDeadline_onlyCounterTouched l s
  · exact sleepWait_onlyCounterTouched l s

end Sys2Proof.Machine

/-! Reset (R200 to R202): what the move leaves in every register, and the invariants in the machine right after it. -/

namespace Sys2Proof.Machine

/-! ## The reset move -/

theorem step_reset {s : State} (hm : s.nextMove = .reset) : step s = .next (applyReset s.afterMove) := by
  simp only [step, hm, takeMove]

/-- What reset leaves in every register (R20, R200), of the ring RAM (R22) and of the environment (R202). -/
@[simp] theorem applyReset_fields (s : State) :
    (applyReset s).params = s.params ∧ (applyReset s).buf = [] ∧ (applyReset s).wp = 0#16 ∧ (applyReset s).rp = 0#16
    ∧ (applyReset s).rtsShadow = false ∧ (applyReset s).timerStarted = false ∧ (applyReset s).dlStart = 0#32
    ∧ (applyReset s).dlEnd = 0#32 ∧ (applyReset s).fcEn = s.params.flowControl ∧ (applyReset s).step = .idle
    ∧ (applyReset s).cOp = 0#4 ∧ (applyReset s).cB0 = 0#8 ∧ (applyReset s).cB1 = 0#8 ∧ (applyReset s).cT = false
    ∧ (applyReset s).cArg = 0#64 ∧ (applyReset s).tLsr = 0#8 ∧ (applyReset s).tData = 0#8 ∧ (applyReset s).tMcr = 0#8
    ∧ (applyReset s).tMsr = 0#8 ∧ (applyReset s).tCur = 0#32 ∧ (applyReset s).tRes = none ∧ (applyReset s).tTicks = 0
    ∧ (applyReset s).argLo = 0#32 ∧ (applyReset s).argHi = 0#32 ∧ (applyReset s).rsp = 0#32
    ∧ (applyReset s).rspV0 = 0#32 ∧ (applyReset s).rspV1 = 0#32 ∧ (applyReset s).busy = false
    ∧ (applyReset s).cmdLost = false ∧ (applyReset s).env = { s.env with resets := s.env.resets + 1 } := by
  and_intros <;> rfl

@[simp] theorem cursors_applyReset (s : State) : (applyReset s).cursors = 0#32 := by
  simp [State.cursors]

/-- A legal word written to CMD while idle starts its command (R78). -/
theorem writeCmd_starts {w : Word} {i : Instr} {s : State} (hidle : s.busy = false) (hd : decode w = .ok i) :
    (writeCmd w s).busy = true ∧ (writeCmd w s).running = some i := by
  have haccept : writeCmd w s = acceptWord w s := hostWrite_cmd_idle w hidle
  rw [haccept]
  exact ⟨acceptWord_busy hd s, acceptWord_running hd s⟩

/-- STAT after reset takes no other values than these two (R200). -/
theorem stat_applyReset_cases {s : State} (hn : 2 ≤ s.params.ringSlots) :
    (applyReset s).stat = 0x10#32 ∨ (applyReset s).stat = 0x12#32 := by
  rw [stat_applyReset hn]
  cases s.params.flowControl
  · exact .inl rfl
  · exact .inr rfl

/-- Settles O14: the move is `applyReset`, which writes every register and leaves the block idle. -/
theorem resetPutsEveryRegisterToItsValue : Obligations.ResetPutsEveryRegisterToItsValue := by
  intro s hm
  refine ⟨applyReset s.afterMove, step_reset hm, ?_⟩
  have hstat := stat_applyReset_cases (s := s.afterMove)
  have hstarts := fun w i => writeCmd_starts (w := w) (i := i) (s := applyReset s.afterMove) rfl
  simpa [BusSaw, Memory.read] using ⟨hstat, hstarts⟩

/-! ## The invariants after reset -/

/-- The values of R6 and every value of what R6 leaves open are within R6's ranges. -/
theorem config_params_wellFormed : Config.params.wellFormed = true := by
  have hticks := Config.ticksPerMsLessOne.isLt
  rw [Params.wellFormed_iff]
  simp only [Config.params]
  omega

/-- The empty ring meets the ring's invariant under every legal choice of the parameters. -/
theorem ringInv_atReset {p : Params} (hp : p.wellFormed = true) (e : Env) : RingInv (State.atReset p e) := by
  obtain ⟨hn, -⟩ := (Params.wellFormed_iff _).1 hp
  have hpos : 0 < p.ringSlots := by omega
  have hcur : CursorInv (State.atReset p e) := ⟨hp, hpos, hpos⟩
  have hcount : (State.atReset p e).count = 0 := hcur.count_zero_iff.2 rfl
  exact ⟨hcur, ⟨.nil, nofun⟩, fun k hk => absurd hk (by omega)⟩

theorem controlInv_of_idle {s : State} (hs : s.step = .idle) (hb : s.busy = false) : ControlInv s :=
  ⟨by simp [hs, hb], by simp [State.running, hs]⟩

theorem flowInv_of_idle {s : State} (hs : s.step = .idle) (hfc : s.fcEn = s.params.flowControl) : FlowInv s :=
  ⟨hfc, fun _ => by rw [hs]; decide⟩

theorem mcrInv_of_idle {s : State} (hs : s.step = .idle) : McrInv s :=
  fun hw => absurd hw (by rw [hs]; decide)

/-- Settles O16: the ring is empty, no command runs, and at IDLE the invariants tied to a label say nothing. -/
theorem invariantsHoldAtReset : Obligations.InvariantsHoldAtReset :=
  ⟨ringInv_atReset config_params_wellFormed _, controlInv_of_idle rfl rfl, flowInv_of_idle rfl rfl,
    timerInv_of_step (s := .reset) (by decide : Label.idle ∉ _),
    uartInv_of_step (s := .reset) (by decide : Label.idle ∉ _), mcrInv_of_idle rfl, rspInv_of_zero rfl⟩

end Sys2Proof.Machine
